-- ==== Sys2Proof/Word.lean ====
section
/-!
DEFINITION. The words that cross the block's ports: data words, result words, commands, and the names of ports,
channels and agents (spec/10_state.md R20, spec/30_encoding.md R70 to R76).
-/
namespace Sys2Proof

/-- An element of the RX or TX channel and an 8-bit data word (R8, R75). -/
abbrev Byte := BitVec 8

/-- An element of the ADC channel and its data word: W_ADC = 8 or 16 bits, zero-extended to 16 (R8, R75; log entry 11). -/
abbrev Sample := BitVec 16

/-- The port a word arrives on (R71). -/
inductive Port where
  | fg     -- the foreground command port, P = 0
  | event  -- the event port, P = 1
  deriving DecidableEq, Repr

/-- The three channels (R2, R72). -/
inductive Channel where
  | rx
  | tx
  | adc
  deriving DecidableEq, Repr

/-- The five kinds of agents (R20). -/
inductive Agent where
  | fg
  | irqRx
  | irqTx
  | irqAdc
  | env
  deriving DecidableEq, Repr

/-- One command or event as a port presents it: its 8-bit command word and the data word that follows it, if one does
(R70, R75, R81). A 16-bit data word is one number: no byte order exists (R52, R85). -/
structure Command where
  word : Byte
  data : Option Sample
  deriving DecidableEq, Repr

/-- One result word of `fg_out`, in the width R76 gives it: 1 bit for EMPTY and STATUS, 8 bits for RX.READ,
W_ADC bits for ADC.READ (log entry 13). -/
inductive ResultWord where
  | bit    (b : BitVec 1)
  | byte   (b : Byte)
  | sample (d : Sample)
  deriving DecidableEq, Repr

/-- The Sampling Channel's visible status (R34). -/
inductive AdcStatus where
  | ready
  | pending
  deriving DecidableEq, Repr

/-- What one step of a run is given to: the foreground, one word on the event port, or reset
(R20, R21, R190, R208; log entry 4). -/
inductive Turn where
  | fg
  | event (c : Command)
  | reset
  deriving DecidableEq, Repr, Inhabited

end Sys2Proof
end

