-- ==== Sys2Proof/Config.lean ====
section
/-!
DEFINITION. What an implementation of the block fixes (spec/00_scope.md R6 to R11), and the one free value of the model.
An illegal capacity or width cannot be written in these types: R11 says the model has no state for such a configuration.
-/
namespace Sys2Proof

/-- A legal capacity: a power of two from 2 to 256 (R7). -/
inductive Capacity where
  | c2
  | c4
  | c8
  | c16
  | c32
  | c64
  | c128
  | c256
  deriving DecidableEq, Repr

/-- `IW = log2(C)`, the width of an index in bits (R9). -/
def Capacity.iw : Capacity → Nat
  | .c2   => 1
  | .c4   => 2
  | .c8   => 3
  | .c16  => 4
  | .c32  => 5
  | .c64  => 6
  | .c128 => 7
  | .c256 => 8

/-- `C`, the number of slots (R6, R7). -/
def Capacity.size (c : Capacity) : Nat := 2 ^ c.iw

/-- `W_ADC` is 8 or 16 (R8). -/
inductive AdcWidth where
  | w8
  | w16
  deriving DecidableEq, Repr

/-- `W_ADC` in bits. -/
def AdcWidth.bits : AdcWidth → Nat
  | .w8  => 8
  | .w16 => 16

/-- The configuration of a block: parameters, not state (R6, R8, R10). `W_RX = W_TX = 8` is in the type `Byte`. -/
structure Config where
  cRX  : Capacity
  cTX  : Capacity
  cADC : Capacity
  wADC : AdcWidth
  deriving DecidableEq, Repr

/-- DESIGN CHOICE (log entry 2, unsafe): the configuration `State.reset` is built with. The spec leaves all four parameters
open (D24, D25); capacity 8 is the one its source's examples use. `State.resetWith` takes any configuration. -/
def Config.standard : Config := { cRX := .c8, cTX := .c8, cADC := .c8, wADC := .w16 }

/-- Free value (log entry 5, safe): who steps next, and with which words, once the schedule held in the state is used up.
Any enabled agent may be scheduled at any step and the words ENV supplies are any value (R20, R61, R173; I1, I2, I11, I12).
It has no body, so a claim that is proved holds for every choice. -/
opaque Config.freeTurn : Nat → Turn

end Sys2Proof
end

