-- ==== Sys2Proof/Syntax.lean ====
section
/-!
DEFINITION. The twelve legal commands and events (spec/30_encoding.md R77), one constructor per row of
spec/opcode_table.json, each with the data word R75 gives it.
-/
namespace Sys2Proof

/-- The commands of the foreground port and the events of the event port. -/
inductive Instr where
  | rxRead
  | rxEmpty
  | txEmpty
  | txWrite (d : Byte)
  | adcRead
  | adcEmpty
  | adcStart
  | adcStatus
  | rxEvt   (d : Byte)
  | txEvt
  | txTxe
  | adcEvt  (d : Sample)
  deriving DecidableEq, Repr

end Sys2Proof
end

