-- ==== Sys2Proof/WellFormed.lean ====
section
/-!
DEFINITION. Which instructions the encoding can spell under a given W_ADC: an operand must fit its data word
(spec/30_encoding.md R75, R83). The 8-bit operands fit by their type.
-/
namespace Sys2Proof

/-- A data word fits a width of `n` bits. -/
def fitsWidth (n : Nat) (d : Sample) : Bool := decide (d.toNat < 2 ^ n)

/-- The operand of ADC.EVT has at most W_ADC bits (R75); every other instruction is well formed. -/
def Instr.wellFormed (w : AdcWidth) : Instr → Bool
  | .rxRead    => true
  | .rxEmpty   => true
  | .txEmpty   => true
  | .txWrite _ => true
  | .adcRead   => true
  | .adcEmpty  => true
  | .adcStart  => true
  | .adcStatus => true
  | .rxEvt _   => true
  | .txEvt     => true
  | .txTxe     => true
  | .adcEvt d  => fitsWidth w.bits d

end Sys2Proof
end

