-- ==== Sys2Proof/Decode.lean ====
section
/-!
DEFINITION. The decoder (spec/30_encoding.md R77 to R81), total on every word of either port, and the encoder, written from
the fields of R70 to R73.
-/
namespace Sys2Proof

/-- The rows of R77: the word each row matches, and its instruction with a data word of zero where it has one. -/
def commandTable : List (Byte × Instr) :=
  [ (0x00, .rxRead),   (0x04, .rxEmpty), (0x24, .txEmpty),  (0x28, .txWrite 0),
    (0x40, .adcRead),  (0x44, .adcEmpty), (0x4C, .adcStart), (0x50, .adcStatus),
    (0x80, .rxEvt 0),  (0xA0, .txEvt),   (0xA4, .txTxe),    (0xC0, .adcEvt 0) ]

/-- R78: the row whose match equals the word under the mask 0xFF, or none (an illegal word, R80). -/
def decodeWord (w : Byte) : Option Instr :=
  (commandTable.find? fun row => w &&& 0xFF == row.1).map (·.2)

/-- The field P of an instruction (R71, R77). -/
def Instr.port : Instr → Port
  | .rxRead    => .fg
  | .rxEmpty   => .fg
  | .txEmpty   => .fg
  | .txWrite _ => .fg
  | .adcRead   => .fg
  | .adcEmpty  => .fg
  | .adcStart  => .fg
  | .adcStatus => .fg
  | .rxEvt _   => .event
  | .txEvt     => .event
  | .txTxe     => .event
  | .adcEvt _  => .event

/-- The field CH of an instruction (R72, R77). -/
def Instr.channel : Instr → Channel
  | .rxRead    => .rx
  | .rxEmpty   => .rx
  | .txEmpty   => .tx
  | .txWrite _ => .tx
  | .adcRead   => .adc
  | .adcEmpty  => .adc
  | .adcStart  => .adc
  | .adcStatus => .adc
  | .rxEvt _   => .rx
  | .txEvt     => .tx
  | .txTxe     => .tx
  | .adcEvt _  => .adc

/-- The field FN of an instruction (R73): READ 000, EMPTY 001, WRITE 010, START 011, STATUS 100; EVT 000, TXE 001. -/
def Instr.function : Instr → BitVec 3
  | .rxRead    => 0b000
  | .rxEmpty   => 0b001
  | .txEmpty   => 0b001
  | .txWrite _ => 0b010
  | .adcRead   => 0b000
  | .adcEmpty  => 0b001
  | .adcStart  => 0b011
  | .adcStatus => 0b100
  | .rxEvt _   => 0b000
  | .txEvt     => 0b000
  | .txTxe     => 0b001
  | .adcEvt _  => 0b000

/-- The agent whose step the instruction is (R20, R77, R178). ENV also supplies the words of RX.EVT and ADC.EVT. -/
def Instr.agent : Instr → Agent
  | .rxRead    => .fg
  | .rxEmpty   => .fg
  | .txEmpty   => .fg
  | .txWrite _ => .fg
  | .adcRead   => .fg
  | .adcEmpty  => .fg
  | .adcStart  => .fg
  | .adcStatus => .fg
  | .rxEvt _   => .irqRx
  | .txEvt     => .irqTx
  | .txTxe     => .env
  | .adcEvt _  => .irqAdc

/-- The width of the data word that follows the command word, none where none does (R75). -/
def Instr.dataWidth (w : AdcWidth) : Instr → Option Nat
  | .rxRead    => none
  | .rxEmpty   => none
  | .txEmpty   => none
  | .txWrite _ => some 8
  | .adcRead   => none
  | .adcEmpty  => none
  | .adcStart  => none
  | .adcStatus => none
  | .rxEvt _   => some 8
  | .txEvt     => none
  | .txTxe     => none
  | .adcEvt _  => some w.bits

/-- The data word an instruction carries, zero-extended (R75). -/
def Instr.data : Instr → Option Sample
  | .rxRead    => none
  | .rxEmpty   => none
  | .txEmpty   => none
  | .txWrite d => some (d.setWidth 16)
  | .adcRead   => none
  | .adcEmpty  => none
  | .adcStart  => none
  | .adcStatus => none
  | .rxEvt d   => some (d.setWidth 16)
  | .txEvt     => none
  | .txTxe     => none
  | .adcEvt d  => some d

/-- The instruction with its data word put in; the decoder calls it only with a word that fits (R75). -/
def Instr.withData (d : Sample) : Instr → Instr
  | .rxRead    => .rxRead
  | .rxEmpty   => .rxEmpty
  | .txEmpty   => .txEmpty
  | .txWrite _ => .txWrite (d.setWidth 8)
  | .adcRead   => .adcRead
  | .adcEmpty  => .adcEmpty
  | .adcStart  => .adcStart
  | .adcStatus => .adcStatus
  | .rxEvt _   => .rxEvt (d.setWidth 8)
  | .txEvt     => .txEvt
  | .txTxe     => .txTxe
  | .adcEvt _  => .adcEvt d

/-- What a port makes of a presented command. -/
inductive Decoded where
  /-- A legal command on its own port, with the data word R75 gives it. -/
  | instr (i : Instr)
  /-- The word is not in R77's table, or it is on the wrong port (R79, R80): IllegalCommand. -/
  | illegal
  /-- The word is legal but the data word is missing, is there where R75 has none, or does not fit: no encoding. -/
  | malformed
  deriving DecidableEq, Repr

/-- Puts the data word into a legal instruction, if there is one exactly where R75 says so, and it fits (R83). -/
def attachData (w : AdcWidth) (i : Instr) (data : Option Sample) : Decoded :=
  match i.dataWidth w, data with
  | none, none     => .instr i
  | some n, some d => if fitsWidth n d then .instr (i.withData d) else .malformed
  | none, some _   => .malformed
  | some _, none   => .malformed

/-- Decoding on a port (R78 to R81): the command word alone says whether it is legal, and R79 ties it to its own port;
the data word is looked at only then ("no data word is consumed" by an illegal word, R162; log entry 10). -/
def decode (p : Port) (w : AdcWidth) (c : Command) : Decoded :=
  match decodeWord c.word with
  | none   => .illegal
  | some i => if i.port = p then attachData w i c.data else .illegal

/-- The field P as a bit (R71). -/
def Port.field : Port → BitVec 1
  | .fg    => 0
  | .event => 1

/-- The field CH as bits (R72). -/
def Channel.field : Channel → BitVec 2
  | .rx  => 0b00
  | .tx  => 0b01
  | .adc => 0b10

/-- The command word of an instruction from its fields P, CH, FN and Z = 00 (R70, R74). -/
def encodeWord (i : Instr) : Byte := i.port.field ++ i.channel.field ++ i.function ++ (0b00 : BitVec 2)

/-- The words of an instruction: its command word and its data word (R70, R75). -/
def encode (i : Instr) : Command := { word := encodeWord i, data := i.data }

/-- An instruction given as one number, the command word in bits 7..0 and the data word above it, with every bit from
`nbits` up zero (the numbering of spec/opcode_table.json). None where `nbits` does not reach over the command word or the
number has more bits than a command word and a 16-bit data word. -/
def commandOfBits (nbits w : Nat) : Option Command :=
  let v := w % 2 ^ nbits
  let word : Byte := BitVec.ofNat 8 v
  let rest := v / 2 ^ 8
  if nbits < 8 ∨ 2 ^ 16 ≤ rest then none
  else
    match decodeWord word with
    | some i => some { word := word, data := if (i.dataWidth .w16).isSome ∨ rest ≠ 0 then some (BitVec.ofNat 16 rest) else none }
    | none   => some { word := word, data := none }

/-- The port that the field P of a word names (R71). -/
def portOfWord (w : Byte) : Port := if w.getLsbD 7 then .event else .fg

/-- The instruction the decoder reads from a table word (W_ADC = 16 stands for the table's dW; log entry 21). -/
def decodeTableWord (nbits w : Nat) : Option Instr :=
  match commandOfBits nbits w with
  | none   => none
  | some c =>
    match decode (portOfWord c.word) .w16 c with
    | .instr i   => some i
    | .illegal   => none
    | .malformed => none

end Sys2Proof
end

