-- ==== Sys2Proof/Machine/State.lean ====
section
/-!
DEFINITION. The state of the block as plain data: everything spec/10_state.md R38 lists, the configuration and program text
that R10 fixes, and the two fields by which the model holds its run's input (log entries 1, 4, 5).
-/
namespace Sys2Proof.Machine

/-- The storage of one channel: the slots written since reset with their elements, in rising order of the slot number, no
slot twice. A slot that is not listed has no value yet (R28, R38, R100; log entry 3). For bytes this is a list of
`Host.Cell`. -/
abbrev Memory (n : Nat) := List (Nat × BitVec n)

/-- The canonical form of a storage: slot numbers strictly rising. -/
abbrev Memory.wf {n : Nat} (m : Memory n) : Prop := (m.map Prod.fst).Pairwise (· < ·)

/-- One channel's ring buffer (R23, R26 to R28). An index has IW bits; the model keeps it in 8 (log entry 12). -/
structure RingBuffer (n : Nat) where
  /-- Index of the most recently written slot (R26). -/
  head    : BitVec 8
  /-- Index of the most recently read slot (R27). -/
  tail    : BitVec 8
  /-- The slots (R28). -/
  storage : Memory n
  deriving DecidableEq, Repr

/-- A ring buffer right after reset: both indices zero, no slot written (R38, R190). -/
def RingBuffer.reset (n : Nat) : RingBuffer n := { head := 0, tail := 0, storage := [] }

/-- The state of the machine. -/
structure State where
  /-- The parameters C_ch and W_ADC (R6, R8); configuration, no step changes it (R10). -/
  config    : Config
  /-- The foreground program text (R10, R25); configuration, no step changes it. -/
  program   : List Command
  /-- The model's own: the turns the run's input still holds, the next one first (log entry 4). -/
  schedule  : List Turn
  /-- The model's own: how many turns were drawn from `Config.freeTurn` (log entry 5). -/
  draws     : Nat
  /-- S1 to S3, the Receive Channel. -/
  rx        : RingBuffer 8
  /-- S4 to S6, the Transmit Channel. -/
  tx        : RingBuffer 8
  /-- S7 to S9, the Sampling Channel; its elements are zero-extended from W_ADC bits (log entry 11). -/
  adc       : RingBuffer 16
  /-- S10, the transmit interrupt enable (R31). -/
  txie      : Bool
  /-- S11, the transmit register is empty (R32). -/
  txe       : Bool
  /-- S12 (R34). -/
  adcStatus : AdcStatus
  /-- S13, a requested conversion has not completed (R35). -/
  adcStart  : Bool
  /-- S14, the sticky fault flag (R36). -/
  err       : Bool
  /-- S15, the fault code (R36, R161). -/
  errcode   : BitVec 4
  /-- S16, the bytes written to the transmit register, the first one first (R33). -/
  txOut     : List Byte
  /-- S17, the result words returned to the foreground, the first one first (R37). -/
  fgOut     : List ResultWord
  /-- S18, the number of foreground commands completed (R25). -/
  fpc       : Nat
  deriving DecidableEq, Repr

/-- Why a step can stop with a fault. -/
inductive Fault where
  /-- CONSUME reached a slot nothing has written since reset. Raised by RX.READ, TX.EVT and ADC.READ. Safe: the spec allows
  a model to fault here, because no run reaches it (R100; log entry 3). -/
  | unwrittenSlot (ch : Channel)
  deriving DecidableEq, Repr

/-- Why a step can be refused. -/
inductive Refusal where
  /-- The instruction has no meaning yet. Raised only by an arm of `exec`; none is left. Safe. -/
  | notModelled (mnemonic : String)
  /-- An event presented while it is not enabled: the spec says that this is not a run of the block and that a model
  refuses it (R167). Raised by TX.EVT, TX.TXE and ADC.EVT. Unsafe where a real peripheral does it (R208; log entry 8). -/
  | eventNotEnabled (mnemonic : String)
  /-- A legal command word on its own port whose data word is missing, is there where it has none, or does not fit: not an
  encoding (R75, R81, R83). Raised by a turn that presents one. Safe (log entry 9). -/
  | malformedCommand
  deriving DecidableEq, Repr

/-- The state right after reset of a block with the given configuration: R38's reset values, all at once (R190, R192).
No program and no schedule is placed. -/
def State.resetWith (cfg : Config) : State :=
  { config := cfg, program := [], schedule := [], draws := 0,
    rx := RingBuffer.reset 8, tx := RingBuffer.reset 8, adc := RingBuffer.reset 16,
    txie := false, txe := true, adcStatus := .ready, adcStart := false,
    err := false, errcode := 0, txOut := [], fgOut := [], fpc := 0 }

/-- The machine right after reset, in the configuration `Config.standard` (log entry 2). -/
def State.reset : State := State.resetWith Config.standard

end Sys2Proof.Machine
end

