-- ==== Sys2Proof/Machine/Ops.lean ====
section
/-!
DEFINITION. The named operations over storage, ring buffers and the other state (spec/00_scope.md R13, R14;
spec/40_ring_buffer.md R90, R91, R94), taking IllegalCommand (spec/60_exceptions.md R162) and reset (R190).
Interrupt return has no operation: it is the end of the handler's step (R176).
-/
namespace Sys2Proof.Machine

/-! ### Storage -/

/-- `MemRead` (R13): the element of a slot, none where nothing has written it since reset. -/
def Memory.read {n : Nat} : Memory n → Nat → Option (BitVec n)
  | [], _          => none
  | (b, w) :: m, a => if a = b then some w else Memory.read m a

/-- `MemWrite` (R13), keeping the canonical form. -/
def Memory.write {n : Nat} : Memory n → Nat → BitVec n → Memory n
  | [], a, v          => [(a, v)]
  | (b, w) :: m, a, v =>
    if a < b then (a, v) :: (b, w) :: m
    else if a = b then (a, v) :: m
    else (b, w) :: Memory.write m a v

/-! ### Ring buffers -/

/-- The index mask `M = C - 1` (R9). -/
def indexMask (c : Capacity) : BitVec 8 := BitVec.ofNat 8 (c.size - 1)

/-- The index successor `succ(i) = (i + 1) & M` (R94). -/
def indexSucc (c : Capacity) (i : BitVec 8) : BitVec 8 := (i + 1) &&& indexMask c

/-- PRODUCE (R90): write the slot after `head`, then publish it. It never tests for a full buffer. -/
def RingBuffer.produce {n : Nat} (c : Capacity) (r : RingBuffer n) (v : BitVec n) : RingBuffer n :=
  let h := indexSucc c r.head
  { r with storage := Memory.write r.storage h.toNat v, head := h }

/-- The slot a CONSUME reads, the one after `tail` (R91). -/
def RingBuffer.front {n : Nat} (c : Capacity) (r : RingBuffer n) : Option (BitVec n) :=
  Memory.read r.storage (indexSucc c r.tail).toNat

/-- The ring buffer with `tail` advanced by one (R91). -/
def RingBuffer.advance {n : Nat} (c : Capacity) (r : RingBuffer n) : RingBuffer n :=
  { r with tail := indexSucc c r.tail }

/-- What CONSUME comes to. -/
inductive Consumed (n : Nat) where
  /-- The buffer is empty: the user holds (R14, R91). -/
  | held
  /-- The slot has not been written since reset (unreachable, R100). -/
  | unwritten
  /-- The element taken, and the ring buffer after it. -/
  | took (v : BitVec n) (r : RingBuffer n)
  deriving DecidableEq, Repr

/-- CONSUME (R91). The hold test is `head == tail` (90_conflicts.md C9). -/
def RingBuffer.consume {n : Nat} (c : Capacity) (r : RingBuffer n) : Consumed n :=
  if r.head = r.tail then .held
  else
    match r.front c with
    | none   => .unwritten
    | some v => .took v (r.advance c)

/-! ### The other state -/

/-- The state with the Receive Channel's ring buffer replaced. -/
def State.setRx (s : State) (r : RingBuffer 8) : State := { s with rx := r }

/-- The state with the Transmit Channel's ring buffer replaced. -/
def State.setTx (s : State) (r : RingBuffer 8) : State := { s with tx := r }

/-- The state with the Sampling Channel's ring buffer replaced. -/
def State.setAdc (s : State) (r : RingBuffer 16) : State := { s with adc := r }

/-- `TXIE <- b` (R31). -/
def State.setTxie (s : State) (b : Bool) : State := { s with txie := b }

/-- `TXE <- b` (R32). -/
def State.setTxe (s : State) (b : Bool) : State := { s with txe := b }

/-- `adc_status <- v` (R34). -/
def State.setAdcStatus (s : State) (v : AdcStatus) : State := { s with adcStatus := v }

/-- `adc_start <- b` (R35). -/
def State.setAdcStart (s : State) (b : Bool) : State := { s with adcStart := b }

/-- `emit_fg(v)` (R13). -/
def State.emitFg (s : State) (v : ResultWord) : State := { s with fgOut := s.fgOut ++ [v] }

/-- `emit_tx(v)` (R13). -/
def State.emitTx (s : State) (v : Byte) : State := { s with txOut := s.txOut ++ [v] }

/-- `fpc <- fpc + 1`: a foreground command completes (R25). -/
def State.completeFg (s : State) : State := { s with fpc := s.fpc + 1 }

/-- Taking IllegalCommand on a word that arrived on port `p` (R162): the first fault leaves its code, ERR is set, and on the
foreground port the word completes. Nothing else changes, and the block goes on. -/
def State.raiseIllegal (s : State) (p : Port) : State :=
  { s with
    errcode := if s.err then s.errcode else 1
    err     := true
    fpc     := match p with
      | .fg    => s.fpc + 1
      | .event => s.fpc }

/-- Reset (R190): every piece of state at its reset value; the parameters, the program text and the rest of the run's input
stay (log entry 15). -/
def State.resetBlock (s : State) : State :=
  { State.resetWith s.config with program := s.program, schedule := s.schedule, draws := s.draws }

/-- The turn the run's input gives to the next step: the schedule's first, or a free one past its end. -/
def State.nextTurn (s : State) : Turn :=
  match s.schedule with
  | []     => Config.freeTurn s.draws
  | t :: _ => t

/-- The state with that turn taken off the run's input. -/
def State.popTurn (s : State) : State :=
  match s.schedule with
  | []     => { s with draws := s.draws + 1 }
  | _ :: l => { s with schedule := l }

/-- A hold (R14): the agent has no step, nothing changes, and the same command is tried again at a later turn. -/
def hold (s : State) : Host.Outcome State Fault Refusal := .next s

/-- The program text with command `c` at index `k`; commands missing before it are filled in with RX.EMPTY. -/
def placeCommand : List Command → Nat → Command → List Command
  | [], 0, c          => [c]
  | [], k + 1, c      => { word := 0x04, data := none } :: placeCommand [] k c
  | _ :: l, 0, c      => c :: l
  | d :: l, k + 1, c  => d :: placeCommand l k c

/-- The state in which the next turn presents command `c` on port `p`: on the foreground port as the command at `fpc`, on the
event port as the event of that turn (log entry 14). -/
def State.place (s : State) (p : Port) (c : Command) : State :=
  match p with
  | .fg    => { s with program := placeCommand s.program s.fpc c, schedule := .fg :: s.schedule }
  | .event => { s with schedule := .event c :: s.schedule }

end Sys2Proof.Machine
end

