-- ==== Sys2Proof/Machine/Flags.lean ====
section
/-!
DEFINITION. The predicates and signals that are computed from the state and never stored: empty, full, the pending count
(spec/10_state.md R30, spec/40_ring_buffer.md R92, R93, R97) and the interrupt requests (R39).
-/
namespace Sys2Proof.Machine

/-- IS_EMPTY (R30, R92). -/
def RingBuffer.isEmpty {n : Nat} (r : RingBuffer n) : Bool := decide (r.head = r.tail)

/-- IS_FULL (R30, R93). -/
def RingBuffer.isFull {n : Nat} (c : Capacity) (r : RingBuffer n) : Bool := decide (indexSucc c r.head = r.tail)

/-- The pending count `(head + C - tail) & M`, in natural numbers (R97). -/
def RingBuffer.pend {n : Nat} (c : Capacity) (r : RingBuffer n) : Nat :=
  (r.head.toNat + c.size - r.tail.toNat) &&& (indexMask c).toNat

/-- `irq_tx_req`: TX.EVT is enabled exactly when it is 1 (R39, R124). -/
def State.irqTxReq (s : State) : Bool := s.txie && s.txe

/-- `adc_inflight`: ADC.EVT is enabled exactly when it is 1 (R39, R146). -/
def State.adcInflight (s : State) : Bool := s.adcStart

/-- The agent of the instruction has a step: a foreground command does not hold (R14, R111, R120, R142), an event is enabled
(R39, R113, R124, R125, R146). -/
def isEnabled (i : Instr) (s : State) : Bool :=
  match i with
  | .rxRead    => !s.rx.isEmpty
  | .rxEmpty   => true
  | .txEmpty   => true
  | .txWrite _ => !s.tx.isFull s.config.cTX
  | .adcRead   => !s.adc.isEmpty
  | .adcEmpty  => true
  | .adcStart  => true
  | .adcStatus => true
  | .rxEvt _   => true
  | .txEvt     => s.irqTxReq
  | .txTxe     => !s.txe
  | .adcEvt _  => s.adcInflight

end Sys2Proof.Machine
end

