-- ==== Sys2Proof/Machine/Operands.lean ====
section
/-!
DEFINITION. The result words (spec/30_encoding.md R76): how a truth value and the sampling status are returned. The operand
forms are one data word or none (R75); Sys2Proof/Decode.lean reads them.
-/
namespace Sys2Proof.Machine

/-- A truth value as a result: 1 = true, 0 = false (R76). -/
def boolResult (b : Bool) : ResultWord := .bit (if b then 1 else 0)

/-- The encoding of the sampling status: READY = 0, PENDING = 1 (R34, R76). -/
def statusBit : AdcStatus → BitVec 1
  | .ready   => 0
  | .pending => 1

/-- The sampling status as a result (R76, R144). -/
def statusResult (v : AdcStatus) : ResultWord := .bit (statusBit v)

/-- The shared effect of the three EMPTY commands (R92, R112, R123, R143): return `is_empty` and complete. -/
def returnEmpty {n : Nat} (r : RingBuffer n) (s : State) : State := (s.emitFg (boolResult r.isEmpty)).completeFg

end Sys2Proof.Machine
end

