-- ==== Sys2Proof/Machine/Receive.lean ====
section
/-!
DEFINITION. The Receive Channel's command and event meanings (spec/41_receive.md).
-/
namespace Sys2Proof.Machine

/-- RX.EVT d8 (R110): the receive handler. Unconditional; on a full buffer it overflows (R99, R115). -/
def execRxEvt (d : Byte) (s : State) : Host.Outcome State Fault Refusal :=
  .next (s.setRx (s.rx.produce s.config.cRX d))

/-- RX.READ (R111): holds while the buffer is empty. -/
def execRxRead (s : State) : Host.Outcome State Fault Refusal :=
  match s.rx.consume s.config.cRX with
  | .held      => hold s
  | .unwritten => .fault (.unwrittenSlot .rx)
  | .took v r  => .next (((s.setRx r).emitFg (.byte v)).completeFg)

/-- RX.EMPTY (R112). -/
def execRxEmpty (s : State) : Host.Outcome State Fault Refusal := .next (returnEmpty s.rx s)

end Sys2Proof.Machine
end

