-- ==== Sys2Proof/Machine/Sampling.lean ====
section
/-!
DEFINITION. The Sampling Channel's command and event meanings (spec/43_sampling.md).
-/
namespace Sys2Proof.Machine

/-- ADC.START (R140): request a conversion. A second request while one is in flight merges with it (R148). -/
def execAdcStart (s : State) : Host.Outcome State Fault Refusal :=
  .next (((s.setAdcStart true).setAdcStatus .pending).completeFg)

/-- ADC.EVT dW (R141): the conversion-complete handler, enabled exactly while a conversion is in flight (R146). It never
tests for a full buffer (R147). -/
def execAdcEvt (d : Sample) (s : State) : Host.Outcome State Fault Refusal :=
  if s.adcInflight then
    .next (((s.setAdc (s.adc.produce s.config.cADC d)).setAdcStatus .ready).setAdcStart false)
  else .refused (.eventNotEnabled "adc.evt_dW")

/-- ADC.READ (R142): holds while the buffer is empty; the status is not touched. -/
def execAdcRead (s : State) : Host.Outcome State Fault Refusal :=
  match s.adc.consume s.config.cADC with
  | .held      => hold s
  | .unwritten => .fault (.unwrittenSlot .adc)
  | .took v r  => .next (((s.setAdc r).emitFg (.sample v)).completeFg)

/-- ADC.EMPTY (R143). -/
def execAdcEmpty (s : State) : Host.Outcome State Fault Refusal := .next (returnEmpty s.adc s)

/-- ADC.STATUS (R144): the status is its own state, not derived from the buffer (R145). -/
def execAdcStatus (s : State) : Host.Outcome State Fault Refusal :=
  .next ((s.emitFg (statusResult s.adcStatus)).completeFg)

end Sys2Proof.Machine
end

