-- ==== Sys2Proof/Machine/Transmit.lean ====
section
/-!
DEFINITION. The Transmit Channel's command and event meanings and its interrupt gating (spec/42_transmit.md).
-/
namespace Sys2Proof.Machine

/-- TX.WRITE d8 (R120): holds while the buffer is full; otherwise produces and arms the transmit interrupt. -/
def execTxWrite (d : Byte) (s : State) : Host.Outcome State Fault Refusal :=
  if s.tx.isFull s.config.cTX then hold s
  else .next (((s.setTx (s.tx.produce s.config.cTX d)).setTxie true).completeFg)

/-- TX.EVT (R121): the transmit handler, enabled exactly while TXIE = 1 and TXE = 1 (R124). It sends one byte, or on an empty
buffer disables its own interrupt source. -/
def execTxEvt (s : State) : Host.Outcome State Fault Refusal :=
  if s.irqTxReq then
    match s.tx.consume s.config.cTX with
    | .held      => .next (s.setTxie false)
    | .unwritten => .fault (.unwrittenSlot .tx)
    | .took v r  => .next (((s.setTx r).emitTx v).setTxe false)
  else .refused (.eventNotEnabled "tx.evt")

/-- TX.TXE (R122): the transmitter's register becomes empty, enabled exactly while TXE = 0 (R125). -/
def execTxTxe (s : State) : Host.Outcome State Fault Refusal :=
  if s.txe then .refused (.eventNotEnabled "tx.txe") else .next (s.setTxe true)

/-- TX.EMPTY (R123). -/
def execTxEmpty (s : State) : Host.Outcome State Fault Refusal := .next (returnEmpty s.tx s)

end Sys2Proof.Machine
end

