-- ==== Sys2Proof/Machine/Dispatch.lean ====
section
/-!
DEFINITION. exec: one arm per instruction of Sys2Proof/Syntax.lean, each a direct call of its meaning.
-/
namespace Sys2Proof.Machine

def exec (i : Instr) (s : State) : Host.Outcome State Fault Refusal :=
  match i with
  | .rxRead => Sys2Proof.Machine.execRxRead s
  | .rxEmpty => Sys2Proof.Machine.execRxEmpty s
  | .txEmpty => Sys2Proof.Machine.execTxEmpty s
  | .txWrite d => Sys2Proof.Machine.execTxWrite d s
  | .adcRead => Sys2Proof.Machine.execAdcRead s
  | .adcEmpty => Sys2Proof.Machine.execAdcEmpty s
  | .adcStart => Sys2Proof.Machine.execAdcStart s
  | .adcStatus => Sys2Proof.Machine.execAdcStatus s
  | .rxEvt d => Sys2Proof.Machine.execRxEvt d s
  | .txEvt => Sys2Proof.Machine.execTxEvt s
  | .txTxe => Sys2Proof.Machine.execTxTxe s
  | .adcEvt d => Sys2Proof.Machine.execAdcEvt d s

end Sys2Proof.Machine
end

