-- ==== Sys2Proof/Machine/Present.lean ====
section
/-!
DEFINITION. What one turn does: the port check and the decoder around exec (spec/30_encoding.md R78, R79), the foreground's
choice of its next command (spec/10_state.md R25), the event port, and reset (spec/70_reset_and_hazards.md R190).
-/
namespace Sys2Proof.Machine

/-- A command presented on a port: executed if it is legal there, IllegalCommand if its word is not (R79, R80, R162). -/
def present (p : Port) (c : Command) (s : State) : Host.Outcome State Fault Refusal :=
  match decode p s.config.wADC c with
  | .instr i   => exec i s
  | .illegal   => .next (s.raiseIllegal p)
  | .malformed => .refused .malformedCommand

/-- The foreground's turn: the command of the program text at `fpc` (R25). When every command has completed, the foreground
has none to issue, and nothing changes (log entry 7). -/
def stepForeground (s : State) : Host.Outcome State Fault Refusal :=
  match s.program[s.fpc]? with
  | some c => present .fg c s
  | none   => .next s

/-- One turn: exactly one command or one event, or reset (R21, R190). -/
def stepTurn (t : Turn) (s : State) : Host.Outcome State Fault Refusal :=
  match t with
  | .fg      => stepForeground s
  | .event c => present .event c s
  | .reset   => .next s.resetBlock

end Sys2Proof.Machine
end

