-- ==== Sys2Proof/Machine/Step.lean ====
section
/-!
DEFINITION. One step of the machine: the turn the run's input gives (spec/10_state.md R20, R21). It only calls the
definitions of the other files.
-/
namespace Sys2Proof.Machine

/-- One step: take the next turn off the run's input and run it. -/
def step (s : State) : Host.Outcome State Fault Refusal := stepTurn s.nextTurn s.popTurn

/-- The state with the instruction of table word `w` placed where the next step takes it: on the foreground port for P = 0, as
an event for P = 1 (log entry 14). A number that is no command word leaves the state as it is. -/
def State.withFetchWord (s : State) (nbits w : Nat) : State :=
  match commandOfBits nbits w with
  | some c => s.place (portOfWord c.word) c
  | none   => s

end Sys2Proof.Machine
end

