-- ==== Sys2Proof/Machine/Assembler.lean ====
section
/-!
DEFINITION. The assembly syntax and the listing form (spec/30_encoding.md R82 to R85). One line holds one command; a line that
breaks a rule is refused by name, and an operand is never truncated. There are no pseudo-instructions, macros or directives
(R84). A line is a list of characters; what the grammar leaves open is in log entry 20.
-/
namespace Sys2Proof.Machine

/-- Why the assembler refuses a line. -/
inductive AsmError where
  /-- Not of the form `[agent ":"] mnemonic [operand] [";" comment]` (R82). -/
  | syntaxError
  /-- An agent other than FG, IRQ, ENV (R82). -/
  | unknownAgent
  /-- Not one of the twelve mnemonics, which are lower case (R82). -/
  | unknownMnemonic
  /-- The agent prefix does not match the mnemonic (R82). -/
  | agentMismatch
  /-- A mnemonic that takes an operand has none (R82). -/
  | missingOperand
  /-- A mnemonic that takes no operand has one (R82). -/
  | extraOperand
  /-- The operand is no literal of R83. -/
  | badLiteral
  /-- The operand does not fit its data word (R83). -/
  | operandTooWide
  deriving DecidableEq, Repr

/-- The agent prefixes (R82). -/
inductive AsmAgent where
  | fg
  | irq
  | env
  deriving DecidableEq, Repr

/-- A token of a line. -/
inductive Token where
  | name  (cs : List Char)
  | char  (c : Char)
  | colon
  deriving DecidableEq, Repr

/-- The single quote. -/
def quoteChar : Char := Char.ofNat 39

/-- A name token from its characters in reverse, nothing for none. -/
def flushName : List Char → List Token
  | []     => []
  | c :: l => [.name (c :: l).reverse]

/-- The tokens of a line up to its comment; none where a character literal is not closed. `acc` is the name read so far, in
reverse. -/
def lexLine : List Char → List Char → Option (List Token)
  | [], acc        => some (flushName acc)
  | c :: rest, acc =>
    if c = ';' then some (flushName acc)
    else if c = quoteChar then
      match rest with
      | d :: e :: rest' =>
        if e = quoteChar then (lexLine rest' []).map fun l => flushName acc ++ .char d :: l else none
      | _ => none
    else if c = ':' then (lexLine rest []).map fun l => flushName acc ++ .colon :: l
    else if c = ' ' ∨ c = '\t' then (lexLine rest []).map fun l => flushName acc ++ l
    else lexLine rest (c :: acc)

/-- The value of a digit character below `base`. -/
def digitValue (base : Nat) (c : Char) : Option Nat :=
  let v :=
    if '0' ≤ c ∧ c ≤ '9' then c.toNat - 48
    else if 'a' ≤ c ∧ c ≤ 'f' then c.toNat - 87
    else if 'A' ≤ c ∧ c ≤ 'F' then c.toNat - 55
    else base
  if v < base then some v else none

/-- The number a list of digits writes, after the value read so far. -/
def digitsValue (base : Nat) : List Char → Nat → Option Nat
  | [], v     => some v
  | c :: l, v =>
    match digitValue base c with
    | some d => digitsValue base l (v * base + d)
    | none   => none

/-- The value of an operand literal (R83): hexadecimal, decimal, or a character for its ASCII code. -/
def literalValue : Token → Option Nat
  | .char c => if c.toNat < 128 then some c.toNat else none
  | .colon  => none
  | .name [] => none
  | .name (c :: l) =>
    match l with
    | x :: y :: ds => if c = '0' ∧ x = 'x' then digitsValue 16 (y :: ds) 0 else digitsValue 10 (c :: l) 0
    | _            => digitsValue 10 (c :: l) 0

/-- An instruction's mnemonic in the assembly syntax (R77, R82). -/
def mnemonicOf : Instr → List Char
  | .rxRead    => ['r', 'x', '.', 'r', 'e', 'a', 'd']
  | .rxEmpty   => ['r', 'x', '.', 'e', 'm', 'p', 't', 'y']
  | .txEmpty   => ['t', 'x', '.', 'e', 'm', 'p', 't', 'y']
  | .txWrite _ => ['t', 'x', '.', 'w', 'r', 'i', 't', 'e']
  | .adcRead   => ['a', 'd', 'c', '.', 'r', 'e', 'a', 'd']
  | .adcEmpty  => ['a', 'd', 'c', '.', 'e', 'm', 'p', 't', 'y']
  | .adcStart  => ['a', 'd', 'c', '.', 's', 't', 'a', 'r', 't']
  | .adcStatus => ['a', 'd', 'c', '.', 's', 't', 'a', 't', 'u', 's']
  | .rxEvt _   => ['r', 'x', '.', 'e', 'v', 't']
  | .txEvt     => ['t', 'x', '.', 'e', 'v', 't']
  | .txTxe     => ['t', 'x', '.', 't', 'x', 'e']
  | .adcEvt _  => ['a', 'd', 'c', '.', 'e', 'v', 't']

/-- The agent prefix an instruction's line may carry: FG for P = 0, IRQ for tx.evt, ENV for the other events (R82). -/
def asmAgentOf : Instr → AsmAgent
  | .rxRead    => .fg
  | .rxEmpty   => .fg
  | .txEmpty   => .fg
  | .txWrite _ => .fg
  | .adcRead   => .fg
  | .adcEmpty  => .fg
  | .adcStart  => .fg
  | .adcStatus => .fg
  | .rxEvt _   => .env
  | .txEvt     => .irq
  | .txTxe     => .env
  | .adcEvt _  => .env

/-- The agent a prefix names (R82). -/
def agentOfName (cs : List Char) : Option AsmAgent :=
  if cs = ['F', 'G'] then some .fg
  else if cs = ['I', 'R', 'Q'] then some .irq
  else if cs = ['E', 'N', 'V'] then some .env
  else none

/-- The instruction a mnemonic names, with a data word of zero where it takes one (R82). -/
def instrOfMnemonic (cs : List Char) : Option Instr :=
  (commandTable.find? fun row => mnemonicOf row.2 == cs).map (·.2)

/-- A mnemonic with its operand, or none (R82, R83). -/
def assembleBody (w : AdcWidth) (i : Instr) (operand : Option Token) : Except AsmError Instr :=
  match i.dataWidth w, operand with
  | none, none     => .ok i
  | none, some _   => .error .extraOperand
  | some _, none   => .error .missingOperand
  | some n, some t =>
    match literalValue t with
    | none   => .error .badLiteral
    | some v => if v < 2 ^ n then .ok (i.withData (BitVec.ofNat 16 v)) else .error .operandTooWide

/-- The tokens after the agent prefix, which must match where there is one (R82). -/
def assembleTokens (w : AdcWidth) (agent : Option AsmAgent) (toks : List Token) : Except AsmError Instr :=
  match toks with
  | .name m :: rest =>
    match instrOfMnemonic m with
    | none   => .error .unknownMnemonic
    | some i =>
      if agent = none ∨ agent = some (asmAgentOf i) then
        match rest with
        | []  => assembleBody w i none
        | [t] => assembleBody w i (some t)
        | _   => .error .syntaxError
      else .error .agentMismatch
  | _ => .error .syntaxError

/-- One line of assembly (R82). -/
def assembleLine (w : AdcWidth) (line : List Char) : Except AsmError Instr :=
  match lexLine line [] with
  | none => .error .syntaxError
  | some (.name a :: .colon :: rest) =>
    match agentOfName a with
    | none   => .error .unknownAgent
    | some g => assembleTokens w (some g) rest
  | some toks => assembleTokens w none toks

/-- A hexadecimal digit, upper case. -/
def hexDigit (v : Nat) : Char := if v < 10 then Char.ofNat (48 + v) else Char.ofNat (55 + v)

/-- `n` hexadecimal digits of a number, the most significant first. -/
def hexDigits : Nat → Nat → List Char
  | 0, _     => []
  | n + 1, v => hexDigits n (v / 16) ++ [hexDigit (v % 16)]

/-- The listing form of an instruction (R85): the word in two hex digits, then the data word in W/4. -/
def listing (w : AdcWidth) (i : Instr) : List Char :=
  hexDigits 2 (encodeWord i).toNat ++
    match i.dataWidth w, i.data with
    | some n, some d => ' ' :: hexDigits (n / 4) d.toNat
    | _, _           => []

end Sys2Proof.Machine
end

