-- ==== Sys2Proof/Machine/Boot.lean ====
section
/-!
DEFINITION. Building a block (spec/00_scope.md R11, spec/70_reset_and_hazards.md R193, R194): the configuration check, and the
state from which a block with a program and a run's input starts.
-/
namespace Sys2Proof

/-- The legal capacities (R7); every other number is refused. -/
def Capacity.ofNat? (n : Nat) : Option Capacity :=
  [Capacity.c2, .c4, .c8, .c16, .c32, .c64, .c128, .c256].find? fun c => c.size == n

/-- The legal W_ADC (R8). -/
def AdcWidth.ofNat? (n : Nat) : Option AdcWidth :=
  [AdcWidth.w8, .w16].find? fun w => w.bits == n

/-- The configuration check (R11, R193): every C_ch a power of two from 2 to 256, W_RX = W_TX = 8 and W_ADC in 8, 16; any other
configuration is refused and has no state. -/
def Config.build? (cRX cTX cADC wRX wTX wADC : Nat) : Option Config :=
  if wRX = 8 ∧ wTX = 8 then
    match Capacity.ofNat? cRX, Capacity.ofNat? cTX, Capacity.ofNat? cADC, AdcWidth.ofNat? wADC with
    | some a, some b, some c, some w => some { cRX := a, cTX := b, cADC := c, wADC := w }
    | _, _, _, _ => none
  else none

/-- Boot (R194): configuration and program text fixed, then reset; `schedule` is the run's input. -/
def Machine.State.boot (cfg : Config) (program : List Command) (schedule : List Turn) : Machine.State :=
  { Machine.State.resetWith cfg with program := program, schedule := schedule }

end Sys2Proof
end

