-- ==== Sys2Proof/Safety.lean ====
section
/-!
DEFINITION. The terms claims are stated in: the machine's invariant, the queue a ring buffer stands for, histories of one ring
buffer, the end of a run (spec/70_reset_and_hazards.md R207), runs and their fairness (R206).
-/
namespace Sys2Proof.Machine

open Host (Outcome)

/-! ### The queue a ring buffer stands for -/

/-- The slot of the `k`-th pending element, counted from 0: the slots after `tail`, wrapping at C (R91, R94). -/
def RingBuffer.pendingSlot {n : Nat} (c : Capacity) (r : RingBuffer n) (k : Nat) : Nat := (r.tail.toNat + 1 + k) % c.size

/-- The pending elements, the one CONSUME takes next first (R97, R98). -/
def RingBuffer.contents {n : Nat} (c : Capacity) (r : RingBuffer n) : List (BitVec n) :=
  (List.range (r.pend c)).filterMap fun k => Memory.read r.storage (r.pendingSlot c k)

/-! ### The invariant -/

/-- What holds of a ring buffer in every reachable state: both indices and every listed slot below C (R28, R29), storage in
canonical form, every pending slot written (R59, R100). -/
structure RingBuffer.Inv {n : Nat} (c : Capacity) (r : RingBuffer n) : Prop where
  head_lt  : r.head.toNat < c.size
  tail_lt  : r.tail.toNat < c.size
  slots_lt : ∀ p ∈ r.storage, p.1 < c.size
  storage_wf : Memory.wf r.storage
  written  : ∀ k, k < r.pend c → Memory.read r.storage (r.pendingSlot c k) ≠ none

/-- What holds of the machine in every reachable state. -/
structure State.Inv (s : State) : Prop where
  rx   : s.rx.Inv s.config.cRX
  tx   : s.tx.Inv s.config.cTX
  adc  : s.adc.Inv s.config.cADC
  /-- Every stored sample has at most W_ADC bits (R28, R51). -/
  adc_fits : ∀ p ∈ s.adc.storage, fitsWidth s.config.wADC.bits p.2 = true
  /-- Every sample returned has at most W_ADC bits (R76). -/
  fg_fits : ∀ d, .sample d ∈ s.fgOut → fitsWidth s.config.wADC.bits d = true
  /-- A byte in the transmit buffer is never stranded with its interrupt disabled (R128). -/
  armed : s.tx.head ≠ s.tx.tail → s.txie = true
  /-- ERRCODE is 0 before the first fault and 1 from then on (R161, R163). -/
  code : s.errcode = if s.err then 1 else 0
  /-- The program index never passes the program's end (R25). -/
  fpc_le : s.fpc ≤ s.program.length

/-! ### Histories of one ring buffer -/

/-- One use of a ring buffer. -/
inductive RingOp (n : Nat) where
  | produce (v : BitVec n)
  | consume
  deriving DecidableEq, Repr

/-- The elements a history produces, in order: PRODUCE number j is the element at index j - 1 (R101). -/
def producedBy {n : Nat} : List (RingOp n) → List (BitVec n)
  | []              => []
  | .produce v :: l => v :: producedBy l
  | .consume :: l   => producedBy l

/-- How many elements a history consumes: `Q_ch` of R95. -/
def consumedBy {n : Nat} : List (RingOp n) → Nat
  | []              => 0
  | .produce _ :: l => consumedBy l
  | .consume :: l   => consumedBy l + 1

/-- A history run on a ring buffer: the buffer after it and the elements consumed, in order; none where a CONSUME in it does not
complete. -/
def RingBuffer.runOps {n : Nat} (c : Capacity) (r : RingBuffer n) : List (RingOp n) → Option (RingBuffer n × List (BitVec n))
  | []              => some (r, [])
  | .produce v :: l => RingBuffer.runOps c (r.produce c v) l
  | .consume :: l   =>
    match r.consume c with
    | .took v r' => (RingBuffer.runOps c r' l).map fun x => (x.1, v :: x.2)
    | .held      => none
    | .unwritten => none

/-- Every PRODUCE of a history that starts with `q` elements pending finds at most C - 2 pending, so none overflows (R98). -/
def neverOverflows {n : Nat} (c : Capacity) : Nat → List (RingOp n) → Prop
  | _, []              => True
  | q, .produce _ :: l => q + 1 < c.size ∧ neverOverflows c (q + 1) l
  | q, .consume :: l   => neverOverflows c (q - 1) l

/-- A ring buffer to which the elements `p` have been produced and from which `q` have been consumed since reset: the counting law
and the slot content law (R95, R96, R101; element number j is `p[j - 1]`, and the last C slots written are still held). -/
structure RingBuffer.Follows {n : Nat} (c : Capacity) (r : RingBuffer n) (p : List (BitVec n)) (q : Nat) : Prop where
  head_eq : r.head.toNat = p.length % c.size
  tail_eq : r.tail.toNat = q % c.size
  consumed_le : q ≤ p.length
  slots : ∀ j, 1 ≤ j → j ≤ p.length → p.length < j + c.size → Memory.read r.storage (j % c.size) = p[j - 1]?

/-- One step of a ring buffer by at most one use, with the elements its consumer has delivered before and after, keeps the counting
and slot content laws; a CONSUME delivers the element that skips exactly C * k (R101). -/
def RingBuffer.KeepsSlotLaw {n : Nat} (c : Capacity) (r r' : RingBuffer n) (op : List (RingOp n)) (out out' : List (BitVec n)) :
    Prop :=
  ∀ p q, r.Follows c p q →
    r'.Follows c (p ++ producedBy op) (q + consumedBy op) ∧
    (op = [.consume] → 1 ≤ (p.length - q) % c.size ∧
      ∃ v, p[q + c.size * ((p.length - q) / c.size)]? = some v ∧ out' = out ++ [v]) ∧
    (op ≠ [.consume] → out' = out)

/-- One step of a ring buffer by at most one use, as a step of the queue it stands for: a PRODUCE appends its element, or hides every
element where the buffer is full (R99), and a CONSUME delivers the first (R60, R98). -/
def RingBuffer.MovesQueue {n : Nat} (c : Capacity) (r r' : RingBuffer n) (op : List (RingOp n)) (out out' : List (BitVec n)) :
    Prop :=
  (op = [] ∨ op = [.consume] ∨ ∃ v, op = [.produce v]) ∧
  (op = [] → r'.contents c = r.contents c ∧ out' = out) ∧
  (op = [.consume] → ∃ v, r.contents c = v :: r'.contents c ∧ out' = out ++ [v]) ∧
  (∀ v, op = [.produce v] → r'.contents c = (if r.isFull c then [] else r.contents c ++ [v]) ∧ out' = out) ∧
  (r'.contents c).length = r'.pend c ∧ r'.pend c ≤ c.size - 1

/-! ### Outcomes -/

/-- The outcome with a function applied to its next state. -/
def mapNext (f : State → State) : Outcome State Fault Refusal → Outcome State Fault Refusal
  | .next s    => .next (f s)
  | .fault e   => .fault e
  | .refused e => .refused e

/-! ### The end of a run -/

/-- A run has ended successfully (R207). -/
def endOfRun (s : State) : Bool :=
  decide (s.fpc = s.program.length) && !s.err && !s.txie && s.txe && !s.adcStart

/-- A state of a faulted run (R162). -/
def faulted (s : State) : Bool := s.err

/-! ### Runs and fairness -/

/-- The instruction a turn executes, none where it executes none: no command left, an illegal or malformed one, reset. -/
def turnInstr (u : Turn) (s : State) : Option Instr :=
  match u with
  | .fg =>
    match s.program[s.fpc]? with
    | some c =>
      match decode .fg s.config.wADC c with
      | .instr i   => some i
      | .illegal   => none
      | .malformed => none
    | none => none
  | .event c =>
    match decode .event s.config.wADC c with
    | .instr i   => some i
    | .illegal   => none
    | .malformed => none
  | .reset => none

/-- The foreground has a step: an illegal word completes at once, a legal command has a step unless it holds (R14, R162). -/
def fgEnabled (s : State) : Bool :=
  match s.program[s.fpc]? with
  | some c =>
    match decode .fg s.config.wADC c with
    | .instr i   => isEnabled i s
    | .illegal   => true
    | .malformed => false
  | none => false

/-- An infinite run: `turns n` takes state `σ n` to state `σ (n + 1)` (R21). -/
def IsRun (turns : Nat → Turn) (σ : Nat → State) : Prop := ∀ n, stepTurn (turns n) (σ n) = .next (σ (n + 1))

/-- Weak fairness of a run (R206): what stays enabled is eventually taken. None is asked for RX.EVT. -/
structure WeaklyFair (turns : Nat → Turn) (σ : Nat → State) : Prop where
  txEvt : ∀ n, (∀ m, n ≤ m → (σ m).irqTxReq = true) → ∃ m, n ≤ m ∧ turnInstr (turns m) (σ m) = some .txEvt
  txTxe : ∀ n, (∀ m, n ≤ m → (σ m).txe = false) → ∃ m, n ≤ m ∧ turnInstr (turns m) (σ m) = some .txTxe
  adcEvt : ∀ n, (∀ m, n ≤ m → (σ m).adcInflight = true) → ∃ m d, n ≤ m ∧ turnInstr (turns m) (σ m) = some (.adcEvt d)
  fg : ∀ n, (∀ m, n ≤ m → fgEnabled (σ m) = true) → ∃ m, n ≤ m ∧ turns m = .fg

/-! ### Finite runs and their histories -/

/-- A list of turns, one step each, stopping at the first that gives no next state. -/
def runTurns (s : State) : List Turn → Outcome State Fault Refusal
  | []     => .next s
  | u :: l =>
    match stepTurn u s with
    | .next t    => runTurns t l
    | .fault e   => .fault e
    | .refused e => .refused e

/-- What an instruction does to the Receive Channel's ring buffer (R23): RX.EVT produces, an RX.READ that completes consumes. -/
def rxOpOf (i : Instr) (s : State) : List (RingOp 8) :=
  match i with
  | .rxRead => if s.rx.isEmpty then [] else [.consume]
  | .rxEmpty => []
  | .txEmpty => []
  | .txWrite _ => []
  | .adcRead => []
  | .adcEmpty => []
  | .adcStart => []
  | .adcStatus => []
  | .rxEvt d => [.produce d]
  | .txEvt => []
  | .txTxe => []
  | .adcEvt _ => []

/-- `rxOpOf` of the instruction a turn executes. -/
def rxOp (u : Turn) (s : State) : List (RingOp 8) :=
  match turnInstr u s with
  | some i => rxOpOf i s
  | none   => []

/-- What an instruction does to the Transmit Channel's ring buffer (R23): a TX.WRITE that completes produces, a TX.EVT that sends
consumes. -/
def txOpOf (i : Instr) (s : State) : List (RingOp 8) :=
  match i with
  | .rxRead => []
  | .rxEmpty => []
  | .txEmpty => []
  | .txWrite d => if s.tx.isFull s.config.cTX then [] else [.produce d]
  | .adcRead => []
  | .adcEmpty => []
  | .adcStart => []
  | .adcStatus => []
  | .rxEvt _ => []
  | .txEvt => if s.tx.isEmpty then [] else [.consume]
  | .txTxe => []
  | .adcEvt _ => []

/-- `txOpOf` of the instruction a turn executes. -/
def txOp (u : Turn) (s : State) : List (RingOp 8) :=
  match turnInstr u s with
  | some i => txOpOf i s
  | none   => []

/-- What an instruction does to the Sampling Channel's ring buffer (R23): ADC.EVT produces, an ADC.READ that completes consumes. -/
def adcOpOf (i : Instr) (s : State) : List (RingOp 16) :=
  match i with
  | .rxRead => []
  | .rxEmpty => []
  | .txEmpty => []
  | .txWrite _ => []
  | .adcRead => if s.adc.isEmpty then [] else [.consume]
  | .adcEmpty => []
  | .adcStart => []
  | .adcStatus => []
  | .rxEvt _ => []
  | .txEvt => []
  | .txTxe => []
  | .adcEvt d => [.produce d]

/-- `adcOpOf` of the instruction a turn executes. -/
def adcOp (u : Turn) (s : State) : List (RingOp 16) :=
  match turnInstr u s with
  | some i => adcOpOf i s
  | none   => []

/-- The history of one ring buffer along a run of turns. -/
def historyOf {n : Nat} (op : Turn → State → List (RingOp n)) (s : State) : List Turn → List (RingOp n)
  | []     => []
  | u :: l =>
    op u s ++
      match stepTurn u s with
      | .next t    => historyOf op t l
      | .fault _   => []
      | .refused _ => []

/-- The bytes among the result words: what RX.READ returned, in order (R76). -/
def bytesOf : List ResultWord → List Byte
  | []              => []
  | .byte b :: l    => b :: bytesOf l
  | .bit _ :: l     => bytesOf l
  | .sample _ :: l  => bytesOf l

/-- The samples among the result words: what ADC.READ returned, in order (R76). -/
def samplesOf : List ResultWord → List Sample
  | []              => []
  | .sample d :: l  => d :: samplesOf l
  | .bit _ :: l     => samplesOf l
  | .byte _ :: l    => samplesOf l

end Sys2Proof.Machine
end

