-- ==== Sys2Proof/Certificates/Slice0/Obligations.lean ====
section
/-!
DEFINITION. The statements for the provers, one per claim, each over all states and operands unless its title names a concrete
case.
-/
open Sys2Proof Sys2Proof.Machine

/-! ### Encoding and decoding -/

/-- 30_encoding.md R77, R75: each legal word, written out as P CH FN Z, decodes on its own port to its instruction. -/
def Obligations.CommandWordsDecode : Prop :=
  decode .fg .w16 ⟨0b00000000, none⟩ = .instr .rxRead ∧
  decode .fg .w16 ⟨0b00000100, none⟩ = .instr .rxEmpty ∧
  decode .fg .w16 ⟨0b00100100, none⟩ = .instr .txEmpty ∧
  decode .fg .w16 ⟨0b00101000, some 0x48⟩ = .instr (.txWrite 0x48) ∧
  decode .fg .w16 ⟨0b01000000, none⟩ = .instr .adcRead ∧
  decode .fg .w16 ⟨0b01000100, none⟩ = .instr .adcEmpty ∧
  decode .fg .w16 ⟨0b01001100, none⟩ = .instr .adcStart ∧
  decode .fg .w16 ⟨0b01010000, none⟩ = .instr .adcStatus ∧
  decode .event .w16 ⟨0b10000000, some 0x5A⟩ = .instr (.rxEvt 0x5A) ∧
  decode .event .w16 ⟨0b10100000, none⟩ = .instr .txEvt ∧
  decode .event .w16 ⟨0b10100100, none⟩ = .instr .txTxe ∧
  decode .event .w16 ⟨0b11000000, some 0x03FF⟩ = .instr (.adcEvt 0x03FF) ∧
  decode .event .w8 ⟨0b11000000, some 0x7F⟩ = .instr (.adcEvt 0x7F)

/-- 30_encoding.md sections 1 to 3: every well-formed instruction, with every operand its data word admits, is read back from
its own words on its own port. -/
def Obligations.DecodeOfEncodeIsInstruction : Prop :=
  ∀ (w : AdcWidth) (i : Instr), i.wellFormed w = true → decode i.port w (encode i) = .instr i

/-- 30_encoding.md sections 1 to 3: a command that decodes is exactly the words of the instruction it decodes to; that
instruction is well formed and on that port. -/
def Obligations.EncodeOfDecodeIsCommand : Prop :=
  ∀ (p : Port) (w : AdcWidth) (k : Command) (i : Instr),
    decode p w k = .instr i → encode i = k ∧ i.port = p ∧ i.wellFormed w = true

/-- R72, R74: CH = 11 and Z ≠ 00 make a word illegal on both ports, whatever its other fields; in a legal word, bits 6:5 are the
channel of its command. -/
def Obligations.ReservedFieldsAreIllegal : Prop :=
  ∀ w : Byte,
    ((w.extractLsb' 0 2 ≠ 0 ∨ w.extractLsb' 5 2 = 0b11) →
      decodeWord w = none ∧ ∀ p a d, decode p a ⟨w, d⟩ = .illegal) ∧
    (∀ i, decodeWord w = some i →
      w.extractLsb' 5 2 = (match i.channel with | .rx => (0b00 : BitVec 2) | .tx => 0b01 | .adc => 0b10))

/-- 30_encoding.md section 3: exactly the twelve words of the table are legal, and the other 244 are illegal. -/
def Obligations.TwelveWordsAreLegal : Prop :=
  (∀ w : Byte, (decodeWord w).isSome = true ↔
    w ∈ [(0x00 : Byte), 0x04, 0x24, 0x28, 0x40, 0x44, 0x4C, 0x50, 0x80, 0xA0, 0xA4, 0xC0]) ∧
  ((List.range 256).filter fun k => (decodeWord (BitVec.ofNat 8 k)).isNone).length = 244

/-- R79: a port executes only the words of its own P, and a legal word on the wrong port raises IllegalCommand: the foreground can
neither run a handler nor raise a peripheral event, and EMPTY exists on the foreground port only. -/
def Obligations.WordOnWrongPortIsIllegal : Prop :=
  ∀ (p : Port) (k : Command) (i : Instr) (s : State), decodeWord k.word = some i →
    (k.word.getLsbD 7 = true ↔ i.port = .event) ∧
    (decode p s.config.wADC k ≠ .illegal → (k.word.getLsbD 7 = true ↔ p = .event)) ∧
    (¬(k.word.getLsbD 7 = true ↔ p = .event) →
      present p k s = .next { s with
        err := true, errcode := if s.err then s.errcode else 1, fpc := if p = .fg then s.fpc + 1 else s.fpc })

/-- R162: an illegal word sets ERR, leaves code 1 if it is the first fault, advances fpc on the foreground port only, and changes
nothing else; later legal words take effect as usual, and the state is never a successful end of run. -/
def Obligations.IllegalCommandEffect : Prop :=
  ∀ (p : Port) (k : Command) (s : State), decode p s.config.wADC k = .illegal →
    ∃ t, present p k s = .next t ∧
      t = { s with
        err := true, errcode := if s.err then s.errcode else 1, fpc := if p = .fg then s.fpc + 1 else s.fpc } ∧
      (∀ q k' i, decode q s.config.wADC k' = .instr i → present q k' t = exec i t) ∧
      faulted t = true ∧ endOfRun t = false

/-- The model's choice (log entry 9): a legal word on its own port whose data word is missing, is there where it takes none, or
does not fit, is refused by name. -/
def Obligations.MalformedCommandIsRefused : Prop :=
  ∀ (p : Port) (k : Command) (i : Instr) (s : State), decodeWord k.word = some i → i.port = p →
    (i.dataWidth s.config.wADC = none → k.data ≠ none → present p k s = .refused .malformedCommand) ∧
    (∀ n, i.dataWidth s.config.wADC = some n →
      (k.data = none → present p k s = .refused .malformedCommand) ∧
      (∀ d, k.data = some d → 2 ^ n ≤ d.toNat → present p k s = .refused .malformedCommand))

/-! ### The ring buffer -/

/-- R94: the successor of an index is `(i + 1) & M`, which is `(i + 1) mod C`: M goes to 0 and every other index to the next;
and no instruction does anything else to an index. -/
def Obligations.SuccessorIsIncrementModuloCapacity : Prop :=
  (∀ (c : Capacity) (i : BitVec 8), i.toNat < c.size →
    (indexSucc c i).toNat = (i.toNat + 1) &&& (c.size - 1) ∧
    (indexSucc c i).toNat = (i.toNat + 1) % c.size ∧
    (i.toNat = c.size - 1 → (indexSucc c i).toNat = 0) ∧
    (i.toNat ≠ c.size - 1 → (indexSucc c i).toNat = i.toNat + 1)) ∧
  (∀ (i : Instr) (s t : State), exec i s = .next t →
    (t.rx.head = s.rx.head ∨ t.rx.head = indexSucc s.config.cRX s.rx.head) ∧
    (t.rx.tail = s.rx.tail ∨ t.rx.tail = indexSucc s.config.cRX s.rx.tail) ∧
    (t.tx.head = s.tx.head ∨ t.tx.head = indexSucc s.config.cTX s.tx.head) ∧
    (t.tx.tail = s.tx.tail ∨ t.tx.tail = indexSucc s.config.cTX s.tx.tail) ∧
    (t.adc.head = s.adc.head ∨ t.adc.head = indexSucc s.config.cADC s.adc.head) ∧
    (t.adc.tail = s.adc.tail ∨ t.adc.tail = indexSucc s.config.cADC s.adc.tail))

/-- R97: the pending count lies in [0, C - 1], PRODUCE adds one modulo C, CONSUME takes one away, empty is 0 and full is C - 1;
along a history from reset it is (P - Q) mod C. -/
def Obligations.PendingCountCountsElements : Prop :=
  ∀ (n : Nat) (c : Capacity) (r : RingBuffer n), r.head.toNat < c.size → r.tail.toNat < c.size →
    r.pend c ≤ c.size - 1 ∧
    (∀ v, (r.produce c v).pend c = (r.pend c + 1) % c.size) ∧
    (∀ v r', r.consume c = .took v r' → 1 ≤ r.pend c ∧ r'.pend c = r.pend c - 1) ∧
    (r.isEmpty = true ↔ r.pend c = 0) ∧
    (r.isFull c = true ↔ r.pend c = c.size - 1) ∧
    (∀ ops outs, (RingBuffer.reset n).runOps c ops = some (r, outs) →
      r.pend c = ((producedBy ops).length - consumedBy ops) % c.size)

/-- R95, R96: along every run from reset with no further reset, each head counts its channel's PRODUCEs modulo C and each tail
its completed CONSUMEs; the consumer is never ahead, and is behind wherever a CONSUME can complete. -/
def Obligations.IndicesCountProducesAndConsumes : Prop :=
  ∀ (cfg : Config) (prog : List Command) (turns : List Turn) (t : State), Turn.reset ∉ turns →
    runTurns (State.boot cfg prog []) turns = .next t →
    let rx := historyOf rxOp (State.boot cfg prog []) turns
    let tx := historyOf txOp (State.boot cfg prog []) turns
    let adc := historyOf adcOp (State.boot cfg prog []) turns
    (t.rx.head.toNat = (producedBy rx).length % cfg.cRX.size ∧ t.rx.tail.toNat = consumedBy rx % cfg.cRX.size ∧
      consumedBy rx ≤ (producedBy rx).length ∧ (t.rx.isEmpty = false → consumedBy rx < (producedBy rx).length)) ∧
    (t.tx.head.toNat = (producedBy tx).length % cfg.cTX.size ∧ t.tx.tail.toNat = consumedBy tx % cfg.cTX.size ∧
      consumedBy tx ≤ (producedBy tx).length ∧ (t.tx.isEmpty = false → consumedBy tx < (producedBy tx).length)) ∧
    (t.adc.head.toNat = (producedBy adc).length % cfg.cADC.size ∧ t.adc.tail.toNat = consumedBy adc % cfg.cADC.size ∧
      consumedBy adc ≤ (producedBy adc).length ∧ (t.adc.isEmpty = false → consumedBy adc < (producedBy adc).length))

/-- R101: after a history from reset, the slot of each of the last C PRODUCEs holds its value, and the next CONSUME that completes
skips exactly C * k elements, for P - Q = C * k + r with 1 ≤ r < C. -/
def Obligations.SlotContentLaw : Prop :=
  ∀ (n : Nat) (c : Capacity) (ops : List (RingOp n)) (r : RingBuffer n) (outs : List (BitVec n)),
    (RingBuffer.reset n).runOps c ops = some (r, outs) →
    (∀ j, 1 ≤ j → j ≤ (producedBy ops).length → (producedBy ops).length < j + c.size →
      Memory.read r.storage (j % c.size) = (producedBy ops)[j - 1]?) ∧
    (∀ v r', r.consume c = .took v r' →
      1 ≤ ((producedBy ops).length - consumedBy ops) % c.size ∧
      (producedBy ops)[consumedBy ops + c.size * (((producedBy ops).length - consumedBy ops) / c.size)]? = some v)

/-- R98: while no PRODUCE finds C - 1 elements pending, the pending count is the number of unread elements, at most C - 1, and the
n-th CONSUME has returned the n-th element produced. -/
def Obligations.FifoWithoutOverflow : Prop :=
  ∀ (n : Nat) (c : Capacity) (ops : List (RingOp n)) (r : RingBuffer n) (outs : List (BitVec n)),
    (RingBuffer.reset n).runOps c ops = some (r, outs) → neverOverflows c 0 ops →
    r.pend c = (producedBy ops).length - consumedBy ops ∧ r.pend c ≤ c.size - 1 ∧
    outs = (producedBy ops).take (consumedBy ops) ∧
    r.contents c = (producedBy ops).drop (consumedBy ops)

/-- 40_ring_buffer.md section 2 (overflow): a PRODUCE on a full buffer writes the slot the consumer read last and makes the whole
buffer read as empty; the next PRODUCE makes its own element, and nothing else, visible. -/
def Obligations.OverflowHidesWholeBuffer : Prop :=
  ∀ (n : Nat) (c : Capacity) (r : RingBuffer n) (v w : BitVec n), r.head.toNat < c.size → r.tail.toNat < c.size →
    r.isFull c = true →
    Memory.read (r.produce c v).storage r.tail.toNat = some v ∧
    (r.produce c v).head = r.tail ∧ (r.produce c v).pend c = 0 ∧ (r.produce c v).isEmpty = true ∧
    ((r.produce c v).produce c w).pend c = 1 ∧
    Memory.read ((r.produce c v).produce c w).storage (indexSucc c r.tail).toNat = some w ∧
    ((r.produce c v).produce c w).consume c = .took w (((r.produce c v).produce c w).advance c)

/-- 10_state.md section 1 (roles): along any run without reset, each channel's ring buffer goes through exactly the history of its
own producer and consumer, and what was consumed is what RX.READ returned, TX.EVT sent and ADC.READ returned. -/
def Obligations.RunsFollowRingHistories : Prop :=
  ∀ (s t : State) (turns : List Turn), Turn.reset ∉ turns → runTurns s turns = .next t →
    (∃ l, s.rx.runOps s.config.cRX (historyOf rxOp s turns) = some (t.rx, l) ∧ bytesOf t.fgOut = bytesOf s.fgOut ++ l) ∧
    (∃ l, s.tx.runOps s.config.cTX (historyOf txOp s turns) = some (t.tx, l) ∧ t.txOut = s.txOut ++ l) ∧
    (∃ l, s.adc.runOps s.config.cADC (historyOf adcOp s turns) = some (t.adc, l) ∧
      samplesOf t.fgOut = samplesOf s.fgOut ++ l)

/-! ### Invariants -/

/-- 70_reset_and_hazards.md section 1: the invariant holds right after reset, in every configuration and with every program and
schedule. -/
def Obligations.InvariantHoldsAtReset : Prop :=
  State.reset.Inv ∧ ∀ (cfg : Config) (prog : List Command) (turns : List Turn), (State.boot cfg prog turns).Inv

/-- 10_state.md section 2, 42_transmit.md section 3: every step from a state that meets the invariant gives a state that meets it,
whatever turn it takes. -/
def Obligations.StepKeepsInvariant : Prop :=
  ∀ s t : State, s.Inv → step s = .next t → t.Inv

/-- 60_exceptions.md section 1: in a state that meets the invariant, a legal foreground command and an enabled event always give a
next state, and leave ERR and ERRCODE alone. That a held command gives one, where R14 says its
agent has no step, is the model's choice (DEDUCED, log entry 6). -/
def Obligations.LegalCommandsNeverStop : Prop :=
  ∀ (i : Instr) (s : State), s.Inv → (i.port = .fg ∨ isEnabled i s = true) →
    ∃ t, exec i s = .next t ∧ t.err = s.err ∧ t.errcode = s.errcode

/-- 40_ring_buffer.md section 2: from a state that meets the invariant no step faults: no slot is read that nothing has written. -/
def Obligations.StepNeverFaults : Prop :=
  ∀ (s : State), s.Inv → ∀ e, step s ≠ .fault e

/-- 42_transmit.md section 3: along every run without reset, TX never overflows, so the bytes in its buffer are exactly those
written and not yet sent, in the order written. -/
def Obligations.TransmitNeverOverflows : Prop :=
  ∀ (s t : State) (turns : List Turn), s.Inv → Turn.reset ∉ turns → runTurns s turns = .next t →
    neverOverflows s.config.cTX (s.tx.pend s.config.cTX) (historyOf txOp s turns) ∧
    t.txOut ++ t.tx.contents t.config.cTX =
      s.txOut ++ s.tx.contents s.config.cTX ++ producedBy (historyOf txOp s turns)

/-- R130: along every run from reset with no further reset, tx_out is the data operands of the completed TX.WRITEs in their
order, cut off at the number of TX.EVTs that sent. -/
def Obligations.TransmittedBytesAreWrittenBytes : Prop :=
  ∀ (cfg : Config) (prog : List Command) (turns : List Turn) (t : State), Turn.reset ∉ turns →
    runTurns (State.boot cfg prog []) turns = .next t →
    t.txOut = (producedBy (historyOf txOp (State.boot cfg prog []) turns)).take
      (consumedBy (historyOf txOp (State.boot cfg prog []) turns))

/-! ### What each command and event does -/

/-- 41_receive.md, RX.READ: on a non-empty buffer it returns the byte in the slot after the tail, advances the tail and completes. -/
def Obligations.RxReadReturnsNextByte : Prop :=
  ∀ (s : State) (b : Byte), s.rx.head ≠ s.rx.tail →
    Memory.read s.rx.storage (indexSucc s.config.cRX s.rx.tail).toNat = some b →
    exec .rxRead s = .next { s with
      rx := { s.rx with tail := indexSucc s.config.cRX s.rx.tail }, fgOut := s.fgOut ++ [.byte b], fpc := s.fpc + 1 }

/-- 43_sampling.md, ADC.READ: as RX.READ, on the Sampling Channel; the status does not change. -/
def Obligations.AdcReadReturnsNextSample : Prop :=
  ∀ (s : State) (d : Sample), s.adc.head ≠ s.adc.tail →
    Memory.read s.adc.storage (indexSucc s.config.cADC s.adc.tail).toNat = some d →
    exec .adcRead s = .next { s with
      adc := { s.adc with tail := indexSucc s.config.cADC s.adc.tail }, fgOut := s.fgOut ++ [.sample d], fpc := s.fpc + 1 }

/-- 00_scope.md section 4 (hold): a read of an empty buffer and a write to a full one change nothing; the step that tried it only
uses up its turn, so the same command is tried again. That a hold is a next state that uses up a turn, where R14 says the agent
has no step, is the model's choice (DEDUCED, log entry 6). -/
def Obligations.ForegroundHoldsWhileBlocked : Prop :=
  ∀ s : State,
    (s.rx.head = s.rx.tail → exec .rxRead s = .next s) ∧
    (s.adc.head = s.adc.tail → exec .adcRead s = .next s) ∧
    (∀ d, indexSucc s.config.cTX s.tx.head = s.tx.tail → exec (.txWrite d) s = .next s) ∧
    (∀ k i, s.nextTurn = .fg → s.program[s.fpc]? = some k → decode .fg s.config.wADC k = .instr i →
      isEnabled i s = false → step s = .next s.popTurn)

/-- 40_ring_buffer.md section 1, IS_EMPTY: RX.EMPTY, TX.EMPTY and ADC.EMPTY return 1 exactly if their channel's head equals its
tail, never hold, and complete. -/
def Obligations.EmptyCommandsReturnEmptiness : Prop :=
  ∀ s : State,
    exec .rxEmpty s = .next { s with
      fgOut := s.fgOut ++ [.bit (if s.rx.head = s.rx.tail then 1 else 0)], fpc := s.fpc + 1 } ∧
    exec .txEmpty s = .next { s with
      fgOut := s.fgOut ++ [.bit (if s.tx.head = s.tx.tail then 1 else 0)], fpc := s.fpc + 1 } ∧
    exec .adcEmpty s = .next { s with
      fgOut := s.fgOut ++ [.bit (if s.adc.head = s.adc.tail then 1 else 0)], fpc := s.fpc + 1 }

/-- 42_transmit.md, TX.WRITE: on a buffer that is not full it writes the byte to the slot after the head, publishes it, sets TXIE
even if it was set, and completes. -/
def Obligations.TxWriteProducesAndArms : Prop :=
  ∀ (s : State) (d : Byte), indexSucc s.config.cTX s.tx.head ≠ s.tx.tail →
    exec (.txWrite d) s = .next { s with
      tx := { s.tx with
        storage := Memory.write s.tx.storage (indexSucc s.config.cTX s.tx.head).toNat d,
        head := indexSucc s.config.cTX s.tx.head },
      txie := true, fpc := s.fpc + 1 }

/-- 41_receive.md, RX.EVT: in every state, full or not, it writes the byte to the slot after the head and publishes it, and changes
nothing else. -/
def Obligations.RxEvtProduces : Prop :=
  ∀ (s : State) (d : Byte),
    exec (.rxEvt d) s = .next { s with
      rx := { s.rx with
        storage := Memory.write s.rx.storage (indexSucc s.config.cRX s.rx.head).toNat d,
        head := indexSucc s.config.cRX s.rx.head } }

/-- 42_transmit.md, TX.EVT: while requested, it sends the byte after the tail and clears TXE, leaving TXIE; on an empty buffer it
clears TXIE and nothing else. -/
def Obligations.TxEvtSendsOrDisarms : Prop :=
  ∀ s : State, s.txie = true → s.txe = true →
    (∀ b, s.tx.head ≠ s.tx.tail →
      Memory.read s.tx.storage (indexSucc s.config.cTX s.tx.tail).toNat = some b →
      exec .txEvt s = .next { s with
        tx := { s.tx with tail := indexSucc s.config.cTX s.tx.tail }, txOut := s.txOut ++ [b], txe := false }) ∧
    (s.tx.head = s.tx.tail → exec .txEvt s = .next { s with txie := false })

/-- 42_transmit.md, TX.TXE: while the transmit register is not empty, it becomes empty, and nothing else changes. -/
def Obligations.TxTxeSetsRegisterEmpty : Prop :=
  ∀ s : State, s.txe = false → exec .txTxe s = .next { s with txe := true }

/-- 43_sampling.md, ADC.START: in every state it sets the start bit and the status PENDING and completes; the ring buffer is not
touched. -/
def Obligations.AdcStartRequestsConversion : Prop :=
  ∀ s : State, exec .adcStart s = .next { s with adcStart := true, adcStatus := .pending, fpc := s.fpc + 1 }

/-- 43_sampling.md, ADC.EVT: while a conversion is in flight, it writes the result to the slot after the head and publishes it, sets
the status READY and clears the start bit. -/
def Obligations.AdcEvtDeliversResult : Prop :=
  ∀ (s : State) (d : Sample), s.adcStart = true →
    exec (.adcEvt d) s = .next { s with
      adc := { s.adc with
        storage := Memory.write s.adc.storage (indexSucc s.config.cADC s.adc.head).toNat d,
        head := indexSucc s.config.cADC s.adc.head },
      adcStatus := .ready, adcStart := false }

/-- 43_sampling.md, ADC.STATUS: in every state it returns 0 for READY and 1 for PENDING, and completes; the status does not
change. -/
def Obligations.AdcStatusReturnsStatus : Prop :=
  ∀ s : State, exec .adcStatus s = .next { s with
    fgOut := s.fgOut ++ [.bit (if s.adcStatus = .pending then 1 else 0)], fpc := s.fpc + 1 }

/-- R167: TX.EVT without a request, TX.TXE with the register empty and ADC.EVT without a conversion in flight are refused, neither
executed nor faulted; enabled, none of them is refused. -/
def Obligations.DisabledEventsAreRefused : Prop :=
  ∀ s : State,
    (¬(s.txie = true ∧ s.txe = true) → exec .txEvt s = .refused (.eventNotEnabled "tx.evt")) ∧
    (s.txe = true → exec .txTxe s = .refused (.eventNotEnabled "tx.txe")) ∧
    (∀ d, s.adcStart = false → exec (.adcEvt d) s = .refused (.eventNotEnabled "adc.evt_dW")) ∧
    (s.txie = true → s.txe = true → ∀ e, exec .txEvt s ≠ .refused e) ∧
    (s.txe = false → ∀ e, exec .txTxe s ≠ .refused e) ∧
    (∀ d, s.adcStart = true → ∀ e, exec (.adcEvt d) s ≠ .refused e)

/-! ### Frames -/

/-- 41_receive.md, 43_sampling.md: RX.READ and ADC.READ change nothing but their own tail, fg_out and fpc; no slot changes. -/
def Obligations.FrameOfReads : Prop :=
  ∀ s t : State,
    (exec .rxRead s = .next t →
      t = { s with rx := { s.rx with tail := t.rx.tail }, fgOut := t.fgOut, fpc := t.fpc } ∧
      (∀ a, Memory.read t.rx.storage a = Memory.read s.rx.storage a) ∧
      (∀ a, Memory.read t.tx.storage a = Memory.read s.tx.storage a) ∧
      (∀ a, Memory.read t.adc.storage a = Memory.read s.adc.storage a)) ∧
    (exec .adcRead s = .next t →
      t = { s with adc := { s.adc with tail := t.adc.tail }, fgOut := t.fgOut, fpc := t.fpc } ∧
      (∀ a, Memory.read t.rx.storage a = Memory.read s.rx.storage a) ∧
      (∀ a, Memory.read t.tx.storage a = Memory.read s.tx.storage a) ∧
      (∀ a, Memory.read t.adc.storage a = Memory.read s.adc.storage a))

/-- 20_memory.md section 1: RX.EMPTY, TX.EMPTY, ADC.EMPTY and ADC.STATUS change nothing but fg_out and fpc. -/
def Obligations.FrameOfStateReports : Prop :=
  ∀ (i : Instr) (s t : State), i ∈ [Instr.rxEmpty, .txEmpty, .adcEmpty, .adcStatus] → exec i s = .next t →
    t = { s with fgOut := t.fgOut, fpc := t.fpc } ∧
    (∀ a, Memory.read t.rx.storage a = Memory.read s.rx.storage a) ∧
    (∀ a, Memory.read t.tx.storage a = Memory.read s.tx.storage a) ∧
    (∀ a, Memory.read t.adc.storage a = Memory.read s.adc.storage a)

/-- 40_ring_buffer.md section 1, PRODUCE: RX.EVT, TX.WRITE and ADC.EVT change no tail, no other channel, and no slot of their own
channel but the one after the head; beside the ring buffer, TX.WRITE changes TXIE and fpc only, ADC.EVT the status and the start
bit only, RX.EVT nothing. -/
def Obligations.FrameOfProducers : Prop :=
  ∀ s t : State,
    (∀ d, exec (.rxEvt d) s = .next t →
      t = { s with rx := { t.rx with tail := s.rx.tail } } ∧
      ∀ a, a ≠ (indexSucc s.config.cRX s.rx.head).toNat → Memory.read t.rx.storage a = Memory.read s.rx.storage a) ∧
    (∀ d, exec (.txWrite d) s = .next t →
      t = { s with tx := { t.tx with tail := s.tx.tail }, txie := t.txie, fpc := t.fpc } ∧
      ∀ a, a ≠ (indexSucc s.config.cTX s.tx.head).toNat → Memory.read t.tx.storage a = Memory.read s.tx.storage a) ∧
    (∀ d, exec (.adcEvt d) s = .next t →
      t = { s with adc := { t.adc with tail := s.adc.tail }, adcStatus := t.adcStatus, adcStart := t.adcStart } ∧
      ∀ a, a ≠ (indexSucc s.config.cADC s.adc.head).toNat → Memory.read t.adc.storage a = Memory.read s.adc.storage a)

/-- 42_transmit.md section 1, 43_sampling.md: TX.EVT changes nothing but the transmit tail, tx_out, TXIE and TXE; TX.TXE nothing but
TXE; ADC.START nothing but the start bit, the status and fpc; none of them changes a slot. -/
def Obligations.FrameOfControlEvents : Prop :=
  ∀ s t : State,
    (exec .txEvt s = .next t →
      t = { s with tx := { s.tx with tail := t.tx.tail }, txOut := t.txOut, txie := t.txie, txe := t.txe } ∧
      (∀ a, Memory.read t.tx.storage a = Memory.read s.tx.storage a) ∧
      (∀ a, Memory.read t.rx.storage a = Memory.read s.rx.storage a) ∧
      (∀ a, Memory.read t.adc.storage a = Memory.read s.adc.storage a)) ∧
    (exec .txTxe s = .next t →
      t = { s with txe := t.txe } ∧
      (∀ a, Memory.read t.tx.storage a = Memory.read s.tx.storage a) ∧
      (∀ a, Memory.read t.rx.storage a = Memory.read s.rx.storage a) ∧
      (∀ a, Memory.read t.adc.storage a = Memory.read s.adc.storage a)) ∧
    (exec .adcStart s = .next t →
      t = { s with adcStart := t.adcStart, adcStatus := t.adcStatus, fpc := t.fpc } ∧
      (∀ a, Memory.read t.tx.storage a = Memory.read s.tx.storage a) ∧
      (∀ a, Memory.read t.rx.storage a = Memory.read s.rx.storage a) ∧
      (∀ a, Memory.read t.adc.storage a = Memory.read s.adc.storage a))

/-! ### Rules of the whole machine -/

/-- 10_state.md section 2 (fpc): a completed or faulting foreground command adds one to fpc, a held one and a foreground with no
command left add nothing, and no event changes it. That the last two are next states is the model's choice (log entries 6
and 7). -/
def Obligations.ProgramIndexCountsCompletions : Prop :=
  ∀ s t : State,
    (∀ k, stepTurn (.event k) s = .next t → t.fpc = s.fpc) ∧
    (stepTurn .fg s = .next t → t.fpc = if fgEnabled s then s.fpc + 1 else s.fpc) ∧
    (stepTurn .fg s = .next t → fgEnabled s = false → t = s)

/-- R126: TXIE goes from 0 to 1 at a TX.WRITE, stays 1 at every TX.WRITE and every TX.EVT on a non-empty buffer, goes from 1 to 0 at
a TX.EVT on an empty buffer, and no other turn but reset changes it. -/
def Obligations.GatingStateMachine : Prop :=
  ∀ s t : State,
    (∀ d, exec (.txWrite d) s = .next t → s.tx.isFull s.config.cTX = false → t.txie = true) ∧
    (exec .txEvt s = .next t → s.txie = true ∧ t.txie = !s.tx.isEmpty) ∧
    (∀ u, u ≠ .reset → stepTurn u s = .next t → t.txie ≠ s.txie →
      (s.txie = false ∧ t.txie = true ∧ ∃ d, turnInstr u s = some (.txWrite d)) ∨
      (s.txie = true ∧ t.txie = false ∧ turnInstr u s = some .txEvt ∧ s.tx.isEmpty = true))

/-- R131: the TX.EVT that finds the buffer empty is the one step that clears TXIE; after it TX.EVT is not enabled, whatever the
peripherals do; the next TX.WRITE sets TXIE, and further writes leave it set. -/
def Obligations.GatingHappensOncePerDrain : Prop :=
  ∀ s t : State, s.tx.isEmpty = true → exec .txEvt s = .next t →
    s.txie = true ∧ t.txie = false ∧ t.tx.isEmpty = true ∧
    (∀ u x, u ≠ .reset → stepTurn u t = .next x → (∀ d, turnInstr u t ≠ some (.txWrite d)) →
      x.txie = false ∧ x.tx.isEmpty = true ∧ exec .txEvt x = .refused (.eventNotEnabled "tx.evt")) ∧
    exec .txEvt t = .refused (.eventNotEnabled "tx.evt") ∧
    (∀ d x, t.tx.isFull t.config.cTX = false → exec (.txWrite d) t = .next x →
      x.txie = true ∧ ∀ d' y, exec (.txWrite d') x = .next y → y.txie = true)

/-- 43_sampling.md: the status is state of its own: only ADC.START (to PENDING) and ADC.EVT (to READY) change it, each together with
the start bit; no other instruction, ADC.READ included, changes either. -/
def Obligations.SamplingStatusIsSeparateState : Prop :=
  ∀ (i : Instr) (s t : State), exec i s = .next t →
    (t.adcStatus ≠ s.adcStatus ∨ t.adcStart ≠ s.adcStart →
      i = .adcStart ∧ t.adcStatus = .pending ∧ t.adcStart = true ∨
      (∃ d, i = .adcEvt d) ∧ t.adcStatus = .ready ∧ t.adcStart = false)

/-- R163: once ERR is 1, no turn but reset clears it or changes ERRCODE; reset clears both; and no command's outcome depends on
either. -/
def Obligations.FaultFlagIsSticky : Prop :=
  (∀ (u : Turn) (s t : State), s.err = true → stepTurn u s = .next t →
    (u ≠ .reset → t.err = true ∧ t.errcode = s.errcode) ∧ (u = .reset → t.err = false ∧ t.errcode = 0)) ∧
  (∀ (i : Instr) (s : State) (e : Bool) (k : BitVec 4),
    exec i { s with err := e, errcode := k } = mapNext (fun t => { t with err := e, errcode := k }) (exec i s))

/-- 00_scope.md section 3: no step changes the parameters or the program text. -/
def Obligations.ConfigurationNeverChanges : Prop :=
  ∀ s t : State, step s = .next t → t.config = s.config ∧ t.program = s.program

/-- R190: reset sets every index to 0, TXIE = 0, TXE = 1, the status READY, the start bit, ERR and ERRCODE to 0, empties tx_out and
fg_out, sets fpc to 0 (a held command is abandoned) and leaves the parameters. Nothing is said of the slots. -/
def Obligations.ResetSetsResetValues : Prop :=
  ∀ s : State, ∃ t, stepTurn .reset s = .next t ∧
    t.rx.head = 0 ∧ t.rx.tail = 0 ∧ t.tx.head = 0 ∧ t.tx.tail = 0 ∧ t.adc.head = 0 ∧ t.adc.tail = 0 ∧
    t.txie = false ∧ t.txe = true ∧ t.adcStatus = .ready ∧ t.adcStart = false ∧ t.err = false ∧ t.errcode = 0 ∧
    t.txOut = [] ∧ t.fgOut = [] ∧ t.fpc = 0 ∧ t.config = s.config

/-- 70_reset_and_hazards.md section 1 (state after reset): after reset fpc is 0, every EMPTY command returns 1, TX.EVT and
ADC.EVT are not enabled, RX.EVT is, and the transmitter is empty with its interrupt disabled. -/
def Obligations.StateAfterReset : Prop :=
  ∀ s t : State, stepTurn .reset s = .next t →
    t.fpc = 0 ∧
    (∀ i, i ∈ [Instr.rxEmpty, .txEmpty, .adcEmpty] → ∃ x, exec i t = .next x ∧ x.fgOut = [.bit 1]) ∧
    t.txie = false ∧ t.txe = true ∧ t.irqTxReq = false ∧ t.adcInflight = false ∧
    (∀ d, isEnabled (.rxEvt d) t = true ∧ ∃ x, exec (.rxEvt d) t = .next x)

/-- The step runs the decoded instruction: a step takes the next turn off the run's input (from the schedule, or past its end from
the free turns); on a foreground turn it executes the command of the program text at fpc, on an event turn the event's, if it
decodes on that port. That a step takes the first turn of a schedule list is the model's choice (log entry 4), and so is
Config.freeTurn of the counter draws past its end (log entry 5). -/
def Obligations.StepRunsDecodedInstruction : Prop :=
  ∀ s : State,
    (∀ l k i, s.schedule = .fg :: l → s.program[s.fpc]? = some k → decode .fg s.config.wADC k = .instr i →
      step s = exec i { s with schedule := l }) ∧
    (∀ l k i, s.schedule = .event k :: l → decode .event s.config.wADC k = .instr i →
      step s = exec i { s with schedule := l }) ∧
    (∀ l, s.schedule = .reset :: l → step s = .next { s with schedule := l }.resetBlock) ∧
    (s.schedule = [] → step s = stepTurn (Config.freeTurn s.draws) { s with draws := s.draws + 1 })

/-- 10_state.md section 1: no instruction of another channel reads or writes a channel's ring buffer. -/
def Obligations.ChannelsShareNoRingState : Prop :=
  ∀ (i : Instr) (s : State),
    (∀ r, i.channel ≠ .rx → exec i (s.setRx r) = mapNext (fun t => t.setRx r) (exec i s)) ∧
    (∀ r, i.channel ≠ .tx → exec i (s.setTx r) = mapNext (fun t => t.setTx r) (exec i s)) ∧
    (∀ r, i.channel ≠ .adc → exec i (s.setAdc r) = mapNext (fun t => t.setAdc r) (exec i s))

/-- 60_exceptions.md section 3: events of different channels enabled together may be taken in either order, with the same state
after both. -/
def Obligations.EventsOfDifferentChannelsCommute : Prop :=
  ∀ (i j : Instr) (s a b : State), i.port = .event → j.port = .event → i.channel ≠ j.channel →
    exec i s = .next a → exec j s = .next b → ∃ t, exec j a = .next t ∧ exec i b = .next t

/-- R148: a second ADC.START before the ADC.EVT of the first changes nothing but fpc, and after that ADC.EVT no other follows. -/
def Obligations.SecondStartMerges : Prop :=
  ∀ s a b : State, exec .adcStart s = .next a → exec .adcStart a = .next b →
    b = { a with fpc := a.fpc + 1 } ∧
    ∀ d, ∃ x, exec (.adcEvt d) b = .next x ∧ ∀ d', exec (.adcEvt d') x = .refused (.eventNotEnabled "adc.evt_dW")

/-- R114: the receive state machine, with IDLE for an empty buffer: RX.EVT leaves IDLE; RX.READ goes to IDLE exactly from one pending
byte; RX.EVT goes from DATA_BUFFERED to IDLE exactly at an overflow. -/
def Obligations.ReceiveStateMachine : Prop :=
  ∀ s t : State, s.rx.head.toNat < s.config.cRX.size → s.rx.tail.toNat < s.config.cRX.size →
    (∀ d, exec (.rxEvt d) s = .next t → s.rx.isEmpty = true → t.rx.isEmpty = false) ∧
    (exec .rxRead s = .next t → s.rx.isEmpty = false → (t.rx.isEmpty = true ↔ s.rx.pend s.config.cRX = 1)) ∧
    (∀ d, exec (.rxEvt d) s = .next t → s.rx.isEmpty = false →
      (t.rx.isEmpty = true ↔ s.rx.pend s.config.cRX = s.config.cRX.size - 1))

/-- 42_transmit.md section 3 (progress): if TX.TXE and TX.EVT are taken wherever they stay enabled, then from every point on a
full buffer is eventually not full, so a held TX.WRITE is released; the buffer eventually drains to empty; and if no further
TX.WRITE completes, TXIE eventually returns to 0 with the buffer empty. -/
def Obligations.FairTransmitterDrains : Prop :=
  ∀ (turns : Nat → Turn) (σ : Nat → State), IsRun turns σ → (σ 0).Inv →
    (∀ n, (∀ m, n ≤ m → (σ m).irqTxReq = true) → ∃ m, n ≤ m ∧ turnInstr (turns m) (σ m) = some .txEvt) →
    (∀ n, (∀ m, n ≤ m → (σ m).txe = false) → ∃ m, n ≤ m ∧ turnInstr (turns m) (σ m) = some .txTxe) →
    ∀ n,
      (∃ m, n ≤ m ∧ (σ m).tx.isFull (σ m).config.cTX = false) ∧
      (∃ m, n ≤ m ∧ (σ m).tx.isEmpty = true) ∧
      ((∀ m v, n ≤ m → txOp (turns m) (σ m) ≠ [.produce v]) →
        ∃ m, n ≤ m ∧ (σ m).tx.isEmpty = true ∧ (σ m).txie = false)

/-- 70_reset_and_hazards.md section 4 (end of a run): at a successful end the transmit buffer is empty, the foreground has no command
left, and no event but RX.EVT is enabled. -/
def Obligations.OnlyReceiveCanActAtTheEnd : Prop :=
  ∀ s : State, s.Inv → endOfRun s = true →
    s.tx.isEmpty = true ∧ s.program[s.fpc]? = none ∧
    ∀ i t, i.port = .event → exec i s = .next t → ∃ d, i = .rxEvt d

/-- 20_memory.md section 1: RX.EMPTY, TX.EMPTY, ADC.EMPTY and ADC.STATUS issued twice in a row return the same value twice. -/
def Obligations.ReportsAreIdempotent : Prop :=
  ∀ (i : Instr) (s t x : State), i ∈ [Instr.rxEmpty, .txEmpty, .adcEmpty, .adcStatus] →
    exec i s = .next t → exec i t = .next x →
    ∃ v, t.fgOut = s.fgOut ++ [v] ∧ x.fgOut = s.fgOut ++ [v, v] ∧ x = { s with fgOut := x.fgOut, fpc := s.fpc + 2 }

/-! ### Assembler, configuration, placing -/

/-- 30_encoding.md section 4: an assembled line gives a well-formed instruction: an operand that does not fit is refused, never
truncated; and the instruction's words decode to it on its port. -/
def Obligations.AssembledOperandFits : Prop :=
  ∀ (w : AdcWidth) (i : Instr) (tok : Token) (line : List Char),
    (∀ j, assembleLine w line = .ok j → j.wellFormed w = true ∧ decode j.port w (encode j) = .instr j) ∧
    (∀ n v, i.dataWidth w = some n → literalValue tok = some v →
      (2 ^ n ≤ v → assembleBody w i (some tok) = .error .operandTooWide) ∧
      (v < 2 ^ n → ∃ j, assembleBody w i (some tok) = .ok j ∧ j.data = some (BitVec.ofNat 16 v) ∧
        encodeWord j = encodeWord i))

/-- 30_encoding.md section 4: two well-formed instructions with the same listing are the same instruction. -/
def Obligations.ListingDeterminesInstruction : Prop :=
  ∀ (w : AdcWidth) (i j : Instr), i.wellFormed w = true → j.wellFormed w = true → listing w i = listing w j → i = j

/-- R193: a configuration is accepted exactly if every capacity is a power of two from 2 to 256, W_RX = W_TX = 8 and W_ADC is 8 or 16,
and the block is built with those parameters. -/
def Obligations.BuildAcceptsLegalConfigurationsOnly : Prop :=
  ∀ cRX cTX cADC wRX wTX wADC : Nat,
    let legal : Nat → Prop := fun c => ∃ k, 1 ≤ k ∧ k ≤ 8 ∧ c = 2 ^ k
    ((∃ cfg, Config.build? cRX cTX cADC wRX wTX wADC = some cfg) ↔
      legal cRX ∧ legal cTX ∧ legal cADC ∧ wRX = 8 ∧ wTX = 8 ∧ (wADC = 8 ∨ wADC = 16)) ∧
    (∀ cfg, Config.build? cRX cTX cADC wRX wTX wADC = some cfg →
      cfg.cRX.size = cRX ∧ cfg.cTX.size = cTX ∧ cfg.cADC.size = cADC ∧ cfg.wADC.bits = wADC)

/-- The model's choice (log entry 14): placing a table word makes the next step run exactly its instruction. -/
def Obligations.PlacedWordRunsNext : Prop :=
  ∀ (s : State) (nbits w : Nat) (i : Instr), decodeTableWord nbits w = some i → i.wellFormed s.config.wADC = true →
    (i.port = .fg →
      step (s.withFetchWord nbits w) = exec i { s with program := placeCommand s.program s.fpc (encode i) } ∧
      (placeCommand s.program s.fpc (encode i))[s.fpc]? = some (encode i) ∧
      ∀ k, k < s.program.length → k ≠ s.fpc → (placeCommand s.program s.fpc (encode i))[k]? = s.program[k]?) ∧
    (i.port = .event → step (s.withFetchWord nbits w) = exec i s)

/-! ### Step lemmas of the ring buffers -/

/-- 40_ring_buffer.md section 2 (counting and slot content): each turn keeps the counting and slot content laws of every channel,
with what it produces appended and what it consumes counted; a CONSUME delivers the element that skips exactly C * k; after reset
the laws hold of an empty history. -/
def Obligations.StepKeepsSlotLaw : Prop :=
  ∀ (u : Turn) (s t : State), stepTurn u s = .next t →
    (u = .reset → t.rx.Follows t.config.cRX [] 0 ∧ t.tx.Follows t.config.cTX [] 0 ∧ t.adc.Follows t.config.cADC [] 0) ∧
    (u ≠ .reset →
      s.rx.KeepsSlotLaw s.config.cRX t.rx (rxOp u s) (bytesOf s.fgOut) (bytesOf t.fgOut) ∧
      s.tx.KeepsSlotLaw s.config.cTX t.tx (txOp u s) s.txOut t.txOut ∧
      s.adc.KeepsSlotLaw s.config.cADC t.adc (adcOp u s) (samplesOf s.fgOut) (samplesOf t.fgOut))

/-- 40_ring_buffer.md section 2, 42_transmit.md section 3: from a state that meets the invariant, each turn moves every channel's
queue by its own producer or consumer, with at most C - 1 elements in it: a PRODUCE appends (or, full, hides all), a CONSUME
delivers the first; TX never produces when full, so the bytes sent and still buffered grow by exactly the byte written; reset
empties the queues. -/
def Obligations.StepMovesQueues : Prop :=
  ∀ (u : Turn) (s t : State), s.Inv → stepTurn u s = .next t →
    (u = .reset → t.rx.contents t.config.cRX = [] ∧ t.tx.contents t.config.cTX = [] ∧ t.adc.contents t.config.cADC = []) ∧
    (u ≠ .reset →
      s.rx.MovesQueue s.config.cRX t.rx (rxOp u s) (bytesOf s.fgOut) (bytesOf t.fgOut) ∧
      s.tx.MovesQueue s.config.cTX t.tx (txOp u s) s.txOut t.txOut ∧
      s.adc.MovesQueue s.config.cADC t.adc (adcOp u s) (samplesOf s.fgOut) (samplesOf t.fgOut) ∧
      (∀ v, txOp u s = [.produce v] → s.tx.isFull s.config.cTX = false) ∧
      t.txOut ++ t.tx.contents s.config.cTX = s.txOut ++ s.tx.contents s.config.cTX ++ producedBy (txOp u s))
end

