-- ==== Sys2Proof/Laws/Memory.lean ====
section
/-!
SUPPORT. The laws of a channel's storage: what a write changes, and that it keeps the canonical form.
-/
namespace Sys2Proof.Machine

variable {n : Nat}

@[simp] theorem Memory.read_nil (a : Nat) : Memory.read ([] : Memory n) a = none := rfl

/-- A write is seen at its own slot and nowhere else. -/
theorem Memory.read_write (m : Memory n) (a b : Nat) (v : BitVec n) :
    Memory.read (Memory.write m a v) b = if b = a then some v else Memory.read m b := by
  induction m with
  | nil => rfl
  | cons p m ih =>
    obtain ⟨c, w⟩ := p
    unfold Memory.write
    split_ifs <;> simp only [Memory.read, ih] <;> split_ifs <;> simp_all

@[simp] theorem Memory.read_write_same (m : Memory n) (a : Nat) (v : BitVec n) :
    Memory.read (Memory.write m a v) a = some v := by simp [Memory.read_write]

theorem Memory.read_write_other (m : Memory n) {a b : Nat} (v : BitVec n) (h : b ≠ a) :
    Memory.read (Memory.write m a v) b = Memory.read m b := by simp [Memory.read_write, h]

/-- The entries of a storage after a write: the written one, or old ones. -/
theorem Memory.mem_write {m : Memory n} {a : Nat} {v : BitVec n} {p : Nat × BitVec n} (h : p ∈ Memory.write m a v) :
    p = (a, v) ∨ p ∈ m := by
  induction m with
  | nil => exact .inl (by simpa [Memory.write] using h)
  | cons q m ih =>
    obtain ⟨c, w⟩ := q
    unfold Memory.write at h
    split_ifs at h
    · simpa using h
    · rcases List.mem_cons.mp h with rfl | h
      · exact .inl rfl
      · exact .inr (List.mem_cons_of_mem _ h)
    · rcases List.mem_cons.mp h with rfl | h
      · exact .inr (by simp)
      · exact (ih h).imp_right (List.mem_cons_of_mem _)

/-- A write keeps the canonical form. -/
theorem Memory.write_wf {m : Memory n} (a : Nat) (v : BitVec n) (h : Memory.wf m) : Memory.wf (Memory.write m a v) := by
  induction m with
  | nil => simp [Memory.write, Memory.wf]
  | cons p m ih =>
    obtain ⟨c, w⟩ := p
    have hc : ∀ q ∈ m, c < q.1 := fun q hq => (List.pairwise_cons.mp h).1 q.1 (List.mem_map_of_mem hq)
    have hm : Memory.wf m := (List.pairwise_cons.mp h).2
    unfold Memory.write
    split_ifs with h1 h2
    · refine List.pairwise_cons.mpr ⟨fun x hx => ?_, h⟩
      rcases List.mem_cons.mp hx with rfl | hx
      · exact h1
      · obtain ⟨q, hq, rfl⟩ := List.mem_map.mp hx
        exact h1.trans (hc q hq)
    · subst h2; exact h
    · refine List.pairwise_cons.mpr ⟨fun x hx => ?_, ih hm⟩
      obtain ⟨q, hq, rfl⟩ := List.mem_map.mp hx
      rcases Memory.mem_write hq with rfl | hq
      · show c < a; omega
      · exact hc q hq

/-- Reset's storage has the canonical form. -/
theorem RingBuffer.reset_wf (n : Nat) : Memory.wf (RingBuffer.reset n).storage := List.Pairwise.nil

end Sys2Proof.Machine
end

