-- ==== Sys2Proof/Laws/State.lean ====
section
/-!
SUPPORT. One lemma per field of State per update, each true by rfl, so that no proof unfolds a record update.
-/
namespace Sys2Proof.Machine

variable (s : State)

/-! ### setRx -/

@[simp] theorem State.setRx_config (r : RingBuffer 8) : (s.setRx r).config = s.config := rfl
@[simp] theorem State.setRx_program (r : RingBuffer 8) : (s.setRx r).program = s.program := rfl
@[simp] theorem State.setRx_schedule (r : RingBuffer 8) : (s.setRx r).schedule = s.schedule := rfl
@[simp] theorem State.setRx_draws (r : RingBuffer 8) : (s.setRx r).draws = s.draws := rfl
@[simp] theorem State.setRx_rx (r : RingBuffer 8) : (s.setRx r).rx = r := rfl
@[simp] theorem State.setRx_tx (r : RingBuffer 8) : (s.setRx r).tx = s.tx := rfl
@[simp] theorem State.setRx_adc (r : RingBuffer 8) : (s.setRx r).adc = s.adc := rfl
@[simp] theorem State.setRx_txie (r : RingBuffer 8) : (s.setRx r).txie = s.txie := rfl
@[simp] theorem State.setRx_txe (r : RingBuffer 8) : (s.setRx r).txe = s.txe := rfl
@[simp] theorem State.setRx_adcStatus (r : RingBuffer 8) : (s.setRx r).adcStatus = s.adcStatus := rfl
@[simp] theorem State.setRx_adcStart (r : RingBuffer 8) : (s.setRx r).adcStart = s.adcStart := rfl
@[simp] theorem State.setRx_err (r : RingBuffer 8) : (s.setRx r).err = s.err := rfl
@[simp] theorem State.setRx_errcode (r : RingBuffer 8) : (s.setRx r).errcode = s.errcode := rfl
@[simp] theorem State.setRx_txOut (r : RingBuffer 8) : (s.setRx r).txOut = s.txOut := rfl
@[simp] theorem State.setRx_fgOut (r : RingBuffer 8) : (s.setRx r).fgOut = s.fgOut := rfl
@[simp] theorem State.setRx_fpc (r : RingBuffer 8) : (s.setRx r).fpc = s.fpc := rfl

/-! ### setTx -/

@[simp] theorem State.setTx_config (r : RingBuffer 8) : (s.setTx r).config = s.config := rfl
@[simp] theorem State.setTx_program (r : RingBuffer 8) : (s.setTx r).program = s.program := rfl
@[simp] theorem State.setTx_schedule (r : RingBuffer 8) : (s.setTx r).schedule = s.schedule := rfl
@[simp] theorem State.setTx_draws (r : RingBuffer 8) : (s.setTx r).draws = s.draws := rfl
@[simp] theorem State.setTx_rx (r : RingBuffer 8) : (s.setTx r).rx = s.rx := rfl
@[simp] theorem State.setTx_tx (r : RingBuffer 8) : (s.setTx r).tx = r := rfl
@[simp] theorem State.setTx_adc (r : RingBuffer 8) : (s.setTx r).adc = s.adc := rfl
@[simp] theorem State.setTx_txie (r : RingBuffer 8) : (s.setTx r).txie = s.txie := rfl
@[simp] theorem State.setTx_txe (r : RingBuffer 8) : (s.setTx r).txe = s.txe := rfl
@[simp] theorem State.setTx_adcStatus (r : RingBuffer 8) : (s.setTx r).adcStatus = s.adcStatus := rfl
@[simp] theorem State.setTx_adcStart (r : RingBuffer 8) : (s.setTx r).adcStart = s.adcStart := rfl
@[simp] theorem State.setTx_err (r : RingBuffer 8) : (s.setTx r).err = s.err := rfl
@[simp] theorem State.setTx_errcode (r : RingBuffer 8) : (s.setTx r).errcode = s.errcode := rfl
@[simp] theorem State.setTx_txOut (r : RingBuffer 8) : (s.setTx r).txOut = s.txOut := rfl
@[simp] theorem State.setTx_fgOut (r : RingBuffer 8) : (s.setTx r).fgOut = s.fgOut := rfl
@[simp] theorem State.setTx_fpc (r : RingBuffer 8) : (s.setTx r).fpc = s.fpc := rfl

/-! ### setAdc -/

@[simp] theorem State.setAdc_config (r : RingBuffer 16) : (s.setAdc r).config = s.config := rfl
@[simp] theorem State.setAdc_program (r : RingBuffer 16) : (s.setAdc r).program = s.program := rfl
@[simp] theorem State.setAdc_schedule (r : RingBuffer 16) : (s.setAdc r).schedule = s.schedule := rfl
@[simp] theorem State.setAdc_draws (r : RingBuffer 16) : (s.setAdc r).draws = s.draws := rfl
@[simp] theorem State.setAdc_rx (r : RingBuffer 16) : (s.setAdc r).rx = s.rx := rfl
@[simp] theorem State.setAdc_tx (r : RingBuffer 16) : (s.setAdc r).tx = s.tx := rfl
@[simp] theorem State.setAdc_adc (r : RingBuffer 16) : (s.setAdc r).adc = r := rfl
@[simp] theorem State.setAdc_txie (r : RingBuffer 16) : (s.setAdc r).txie = s.txie := rfl
@[simp] theorem State.setAdc_txe (r : RingBuffer 16) : (s.setAdc r).txe = s.txe := rfl
@[simp] theorem State.setAdc_adcStatus (r : RingBuffer 16) : (s.setAdc r).adcStatus = s.adcStatus := rfl
@[simp] theorem State.setAdc_adcStart (r : RingBuffer 16) : (s.setAdc r).adcStart = s.adcStart := rfl
@[simp] theorem State.setAdc_err (r : RingBuffer 16) : (s.setAdc r).err = s.err := rfl
@[simp] theorem State.setAdc_errcode (r : RingBuffer 16) : (s.setAdc r).errcode = s.errcode := rfl
@[simp] theorem State.setAdc_txOut (r : RingBuffer 16) : (s.setAdc r).txOut = s.txOut := rfl
@[simp] theorem State.setAdc_fgOut (r : RingBuffer 16) : (s.setAdc r).fgOut = s.fgOut := rfl
@[simp] theorem State.setAdc_fpc (r : RingBuffer 16) : (s.setAdc r).fpc = s.fpc := rfl

/-! ### setTxie -/

@[simp] theorem State.setTxie_config (b : Bool) : (s.setTxie b).config = s.config := rfl
@[simp] theorem State.setTxie_program (b : Bool) : (s.setTxie b).program = s.program := rfl
@[simp] theorem State.setTxie_schedule (b : Bool) : (s.setTxie b).schedule = s.schedule := rfl
@[simp] theorem State.setTxie_draws (b : Bool) : (s.setTxie b).draws = s.draws := rfl
@[simp] theorem State.setTxie_rx (b : Bool) : (s.setTxie b).rx = s.rx := rfl
@[simp] theorem State.setTxie_tx (b : Bool) : (s.setTxie b).tx = s.tx := rfl
@[simp] theorem State.setTxie_adc (b : Bool) : (s.setTxie b).adc = s.adc := rfl
@[simp] theorem State.setTxie_txie (b : Bool) : (s.setTxie b).txie = b := rfl
@[simp] theorem State.setTxie_txe (b : Bool) : (s.setTxie b).txe = s.txe := rfl
@[simp] theorem State.setTxie_adcStatus (b : Bool) : (s.setTxie b).adcStatus = s.adcStatus := rfl
@[simp] theorem State.setTxie_adcStart (b : Bool) : (s.setTxie b).adcStart = s.adcStart := rfl
@[simp] theorem State.setTxie_err (b : Bool) : (s.setTxie b).err = s.err := rfl
@[simp] theorem State.setTxie_errcode (b : Bool) : (s.setTxie b).errcode = s.errcode := rfl
@[simp] theorem State.setTxie_txOut (b : Bool) : (s.setTxie b).txOut = s.txOut := rfl
@[simp] theorem State.setTxie_fgOut (b : Bool) : (s.setTxie b).fgOut = s.fgOut := rfl
@[simp] theorem State.setTxie_fpc (b : Bool) : (s.setTxie b).fpc = s.fpc := rfl

/-! ### setTxe -/

@[simp] theorem State.setTxe_config (b : Bool) : (s.setTxe b).config = s.config := rfl
@[simp] theorem State.setTxe_program (b : Bool) : (s.setTxe b).program = s.program := rfl
@[simp] theorem State.setTxe_schedule (b : Bool) : (s.setTxe b).schedule = s.schedule := rfl
@[simp] theorem State.setTxe_draws (b : Bool) : (s.setTxe b).draws = s.draws := rfl
@[simp] theorem State.setTxe_rx (b : Bool) : (s.setTxe b).rx = s.rx := rfl
@[simp] theorem State.setTxe_tx (b : Bool) : (s.setTxe b).tx = s.tx := rfl
@[simp] theorem State.setTxe_adc (b : Bool) : (s.setTxe b).adc = s.adc := rfl
@[simp] theorem State.setTxe_txie (b : Bool) : (s.setTxe b).txie = s.txie := rfl
@[simp] theorem State.setTxe_txe (b : Bool) : (s.setTxe b).txe = b := rfl
@[simp] theorem State.setTxe_adcStatus (b : Bool) : (s.setTxe b).adcStatus = s.adcStatus := rfl
@[simp] theorem State.setTxe_adcStart (b : Bool) : (s.setTxe b).adcStart = s.adcStart := rfl
@[simp] theorem State.setTxe_err (b : Bool) : (s.setTxe b).err = s.err := rfl
@[simp] theorem State.setTxe_errcode (b : Bool) : (s.setTxe b).errcode = s.errcode := rfl
@[simp] theorem State.setTxe_txOut (b : Bool) : (s.setTxe b).txOut = s.txOut := rfl
@[simp] theorem State.setTxe_fgOut (b : Bool) : (s.setTxe b).fgOut = s.fgOut := rfl
@[simp] theorem State.setTxe_fpc (b : Bool) : (s.setTxe b).fpc = s.fpc := rfl

/-! ### setAdcStatus -/

@[simp] theorem State.setAdcStatus_config (v : AdcStatus) : (s.setAdcStatus v).config = s.config := rfl
@[simp] theorem State.setAdcStatus_program (v : AdcStatus) : (s.setAdcStatus v).program = s.program := rfl
@[simp] theorem State.setAdcStatus_schedule (v : AdcStatus) : (s.setAdcStatus v).schedule = s.schedule := rfl
@[simp] theorem State.setAdcStatus_draws (v : AdcStatus) : (s.setAdcStatus v).draws = s.draws := rfl
@[simp] theorem State.setAdcStatus_rx (v : AdcStatus) : (s.setAdcStatus v).rx = s.rx := rfl
@[simp] theorem State.setAdcStatus_tx (v : AdcStatus) : (s.setAdcStatus v).tx = s.tx := rfl
@[simp] theorem State.setAdcStatus_adc (v : AdcStatus) : (s.setAdcStatus v).adc = s.adc := rfl
@[simp] theorem State.setAdcStatus_txie (v : AdcStatus) : (s.setAdcStatus v).txie = s.txie := rfl
@[simp] theorem State.setAdcStatus_txe (v : AdcStatus) : (s.setAdcStatus v).txe = s.txe := rfl
@[simp] theorem State.setAdcStatus_adcStatus (v : AdcStatus) : (s.setAdcStatus v).adcStatus = v := rfl
@[simp] theorem State.setAdcStatus_adcStart (v : AdcStatus) : (s.setAdcStatus v).adcStart = s.adcStart := rfl
@[simp] theorem State.setAdcStatus_err (v : AdcStatus) : (s.setAdcStatus v).err = s.err := rfl
@[simp] theorem State.setAdcStatus_errcode (v : AdcStatus) : (s.setAdcStatus v).errcode = s.errcode := rfl
@[simp] theorem State.setAdcStatus_txOut (v : AdcStatus) : (s.setAdcStatus v).txOut = s.txOut := rfl
@[simp] theorem State.setAdcStatus_fgOut (v : AdcStatus) : (s.setAdcStatus v).fgOut = s.fgOut := rfl
@[simp] theorem State.setAdcStatus_fpc (v : AdcStatus) : (s.setAdcStatus v).fpc = s.fpc := rfl

/-! ### setAdcStart -/

@[simp] theorem State.setAdcStart_config (b : Bool) : (s.setAdcStart b).config = s.config := rfl
@[simp] theorem State.setAdcStart_program (b : Bool) : (s.setAdcStart b).program = s.program := rfl
@[simp] theorem State.setAdcStart_schedule (b : Bool) : (s.setAdcStart b).schedule = s.schedule := rfl
@[simp] theorem State.setAdcStart_draws (b : Bool) : (s.setAdcStart b).draws = s.draws := rfl
@[simp] theorem State.setAdcStart_rx (b : Bool) : (s.setAdcStart b).rx = s.rx := rfl
@[simp] theorem State.setAdcStart_tx (b : Bool) : (s.setAdcStart b).tx = s.tx := rfl
@[simp] theorem State.setAdcStart_adc (b : Bool) : (s.setAdcStart b).adc = s.adc := rfl
@[simp] theorem State.setAdcStart_txie (b : Bool) : (s.setAdcStart b).txie = s.txie := rfl
@[simp] theorem State.setAdcStart_txe (b : Bool) : (s.setAdcStart b).txe = s.txe := rfl
@[simp] theorem State.setAdcStart_adcStatus (b : Bool) : (s.setAdcStart b).adcStatus = s.adcStatus := rfl
@[simp] theorem State.setAdcStart_adcStart (b : Bool) : (s.setAdcStart b).adcStart = b := rfl
@[simp] theorem State.setAdcStart_err (b : Bool) : (s.setAdcStart b).err = s.err := rfl
@[simp] theorem State.setAdcStart_errcode (b : Bool) : (s.setAdcStart b).errcode = s.errcode := rfl
@[simp] theorem State.setAdcStart_txOut (b : Bool) : (s.setAdcStart b).txOut = s.txOut := rfl
@[simp] theorem State.setAdcStart_fgOut (b : Bool) : (s.setAdcStart b).fgOut = s.fgOut := rfl
@[simp] theorem State.setAdcStart_fpc (b : Bool) : (s.setAdcStart b).fpc = s.fpc := rfl

/-! ### emitFg -/

@[simp] theorem State.emitFg_config (v : ResultWord) : (s.emitFg v).config = s.config := rfl
@[simp] theorem State.emitFg_program (v : ResultWord) : (s.emitFg v).program = s.program := rfl
@[simp] theorem State.emitFg_schedule (v : ResultWord) : (s.emitFg v).schedule = s.schedule := rfl
@[simp] theorem State.emitFg_draws (v : ResultWord) : (s.emitFg v).draws = s.draws := rfl
@[simp] theorem State.emitFg_rx (v : ResultWord) : (s.emitFg v).rx = s.rx := rfl
@[simp] theorem State.emitFg_tx (v : ResultWord) : (s.emitFg v).tx = s.tx := rfl
@[simp] theorem State.emitFg_adc (v : ResultWord) : (s.emitFg v).adc = s.adc := rfl
@[simp] theorem State.emitFg_txie (v : ResultWord) : (s.emitFg v).txie = s.txie := rfl
@[simp] theorem State.emitFg_txe (v : ResultWord) : (s.emitFg v).txe = s.txe := rfl
@[simp] theorem State.emitFg_adcStatus (v : ResultWord) : (s.emitFg v).adcStatus = s.adcStatus := rfl
@[simp] theorem State.emitFg_adcStart (v : ResultWord) : (s.emitFg v).adcStart = s.adcStart := rfl
@[simp] theorem State.emitFg_err (v : ResultWord) : (s.emitFg v).err = s.err := rfl
@[simp] theorem State.emitFg_errcode (v : ResultWord) : (s.emitFg v).errcode = s.errcode := rfl
@[simp] theorem State.emitFg_txOut (v : ResultWord) : (s.emitFg v).txOut = s.txOut := rfl
@[simp] theorem State.emitFg_fgOut (v : ResultWord) : (s.emitFg v).fgOut = s.fgOut ++ [v] := rfl
@[simp] theorem State.emitFg_fpc (v : ResultWord) : (s.emitFg v).fpc = s.fpc := rfl

/-! ### emitTx -/

@[simp] theorem State.emitTx_config (v : Byte) : (s.emitTx v).config = s.config := rfl
@[simp] theorem State.emitTx_program (v : Byte) : (s.emitTx v).program = s.program := rfl
@[simp] theorem State.emitTx_schedule (v : Byte) : (s.emitTx v).schedule = s.schedule := rfl
@[simp] theorem State.emitTx_draws (v : Byte) : (s.emitTx v).draws = s.draws := rfl
@[simp] theorem State.emitTx_rx (v : Byte) : (s.emitTx v).rx = s.rx := rfl
@[simp] theorem State.emitTx_tx (v : Byte) : (s.emitTx v).tx = s.tx := rfl
@[simp] theorem State.emitTx_adc (v : Byte) : (s.emitTx v).adc = s.adc := rfl
@[simp] theorem State.emitTx_txie (v : Byte) : (s.emitTx v).txie = s.txie := rfl
@[simp] theorem State.emitTx_txe (v : Byte) : (s.emitTx v).txe = s.txe := rfl
@[simp] theorem State.emitTx_adcStatus (v : Byte) : (s.emitTx v).adcStatus = s.adcStatus := rfl
@[simp] theorem State.emitTx_adcStart (v : Byte) : (s.emitTx v).adcStart = s.adcStart := rfl
@[simp] theorem State.emitTx_err (v : Byte) : (s.emitTx v).err = s.err := rfl
@[simp] theorem State.emitTx_errcode (v : Byte) : (s.emitTx v).errcode = s.errcode := rfl
@[simp] theorem State.emitTx_txOut (v : Byte) : (s.emitTx v).txOut = s.txOut ++ [v] := rfl
@[simp] theorem State.emitTx_fgOut (v : Byte) : (s.emitTx v).fgOut = s.fgOut := rfl
@[simp] theorem State.emitTx_fpc (v : Byte) : (s.emitTx v).fpc = s.fpc := rfl

/-! ### completeFg -/

@[simp] theorem State.completeFg_config : (s.completeFg).config = s.config := rfl
@[simp] theorem State.completeFg_program : (s.completeFg).program = s.program := rfl
@[simp] theorem State.completeFg_schedule : (s.completeFg).schedule = s.schedule := rfl
@[simp] theorem State.completeFg_draws : (s.completeFg).draws = s.draws := rfl
@[simp] theorem State.completeFg_rx : (s.completeFg).rx = s.rx := rfl
@[simp] theorem State.completeFg_tx : (s.completeFg).tx = s.tx := rfl
@[simp] theorem State.completeFg_adc : (s.completeFg).adc = s.adc := rfl
@[simp] theorem State.completeFg_txie : (s.completeFg).txie = s.txie := rfl
@[simp] theorem State.completeFg_txe : (s.completeFg).txe = s.txe := rfl
@[simp] theorem State.completeFg_adcStatus : (s.completeFg).adcStatus = s.adcStatus := rfl
@[simp] theorem State.completeFg_adcStart : (s.completeFg).adcStart = s.adcStart := rfl
@[simp] theorem State.completeFg_err : (s.completeFg).err = s.err := rfl
@[simp] theorem State.completeFg_errcode : (s.completeFg).errcode = s.errcode := rfl
@[simp] theorem State.completeFg_txOut : (s.completeFg).txOut = s.txOut := rfl
@[simp] theorem State.completeFg_fgOut : (s.completeFg).fgOut = s.fgOut := rfl
@[simp] theorem State.completeFg_fpc : (s.completeFg).fpc = s.fpc + 1 := rfl

/-! ### raiseIllegal -/

@[simp] theorem State.raiseIllegal_config (p : Port) : (s.raiseIllegal p).config = s.config := rfl
@[simp] theorem State.raiseIllegal_program (p : Port) : (s.raiseIllegal p).program = s.program := rfl
@[simp] theorem State.raiseIllegal_schedule (p : Port) : (s.raiseIllegal p).schedule = s.schedule := rfl
@[simp] theorem State.raiseIllegal_draws (p : Port) : (s.raiseIllegal p).draws = s.draws := rfl
@[simp] theorem State.raiseIllegal_rx (p : Port) : (s.raiseIllegal p).rx = s.rx := rfl
@[simp] theorem State.raiseIllegal_tx (p : Port) : (s.raiseIllegal p).tx = s.tx := rfl
@[simp] theorem State.raiseIllegal_adc (p : Port) : (s.raiseIllegal p).adc = s.adc := rfl
@[simp] theorem State.raiseIllegal_txie (p : Port) : (s.raiseIllegal p).txie = s.txie := rfl
@[simp] theorem State.raiseIllegal_txe (p : Port) : (s.raiseIllegal p).txe = s.txe := rfl
@[simp] theorem State.raiseIllegal_adcStatus (p : Port) : (s.raiseIllegal p).adcStatus = s.adcStatus := rfl
@[simp] theorem State.raiseIllegal_adcStart (p : Port) : (s.raiseIllegal p).adcStart = s.adcStart := rfl
@[simp] theorem State.raiseIllegal_err (p : Port) : (s.raiseIllegal p).err = true := rfl
@[simp] theorem State.raiseIllegal_errcode (p : Port) : (s.raiseIllegal p).errcode = if s.err then s.errcode else 1 := rfl
@[simp] theorem State.raiseIllegal_txOut (p : Port) : (s.raiseIllegal p).txOut = s.txOut := rfl
@[simp] theorem State.raiseIllegal_fgOut (p : Port) : (s.raiseIllegal p).fgOut = s.fgOut := rfl
@[simp] theorem State.raiseIllegal_fg_fpc : (s.raiseIllegal .fg).fpc = s.fpc + 1 := rfl
@[simp] theorem State.raiseIllegal_event_fpc : (s.raiseIllegal .event).fpc = s.fpc := rfl

/-! ### returnEmpty -/

@[simp] theorem returnEmpty_config {n : Nat} (r : RingBuffer n) : (returnEmpty r s).config = s.config := rfl
@[simp] theorem returnEmpty_program {n : Nat} (r : RingBuffer n) : (returnEmpty r s).program = s.program := rfl
@[simp] theorem returnEmpty_schedule {n : Nat} (r : RingBuffer n) : (returnEmpty r s).schedule = s.schedule := rfl
@[simp] theorem returnEmpty_draws {n : Nat} (r : RingBuffer n) : (returnEmpty r s).draws = s.draws := rfl
@[simp] theorem returnEmpty_rx {n : Nat} (r : RingBuffer n) : (returnEmpty r s).rx = s.rx := rfl
@[simp] theorem returnEmpty_tx {n : Nat} (r : RingBuffer n) : (returnEmpty r s).tx = s.tx := rfl
@[simp] theorem returnEmpty_adc {n : Nat} (r : RingBuffer n) : (returnEmpty r s).adc = s.adc := rfl
@[simp] theorem returnEmpty_txie {n : Nat} (r : RingBuffer n) : (returnEmpty r s).txie = s.txie := rfl
@[simp] theorem returnEmpty_txe {n : Nat} (r : RingBuffer n) : (returnEmpty r s).txe = s.txe := rfl
@[simp] theorem returnEmpty_adcStatus {n : Nat} (r : RingBuffer n) : (returnEmpty r s).adcStatus = s.adcStatus := rfl
@[simp] theorem returnEmpty_adcStart {n : Nat} (r : RingBuffer n) : (returnEmpty r s).adcStart = s.adcStart := rfl
@[simp] theorem returnEmpty_err {n : Nat} (r : RingBuffer n) : (returnEmpty r s).err = s.err := rfl
@[simp] theorem returnEmpty_errcode {n : Nat} (r : RingBuffer n) : (returnEmpty r s).errcode = s.errcode := rfl
@[simp] theorem returnEmpty_txOut {n : Nat} (r : RingBuffer n) : (returnEmpty r s).txOut = s.txOut := rfl
@[simp] theorem returnEmpty_fgOut {n : Nat} (r : RingBuffer n) : (returnEmpty r s).fgOut = s.fgOut ++ [boolResult r.isEmpty] := rfl
@[simp] theorem returnEmpty_fpc {n : Nat} (r : RingBuffer n) : (returnEmpty r s).fpc = s.fpc + 1 := rfl

/-! ### resetBlock -/

@[simp] theorem State.resetBlock_config : s.resetBlock.config = s.config := rfl
@[simp] theorem State.resetBlock_program : s.resetBlock.program = s.program := rfl
@[simp] theorem State.resetBlock_schedule : s.resetBlock.schedule = s.schedule := rfl
@[simp] theorem State.resetBlock_draws : s.resetBlock.draws = s.draws := rfl
@[simp] theorem State.resetBlock_rx : s.resetBlock.rx = RingBuffer.reset 8 := rfl
@[simp] theorem State.resetBlock_tx : s.resetBlock.tx = RingBuffer.reset 8 := rfl
@[simp] theorem State.resetBlock_adc : s.resetBlock.adc = RingBuffer.reset 16 := rfl
@[simp] theorem State.resetBlock_txie : s.resetBlock.txie = false := rfl
@[simp] theorem State.resetBlock_txe : s.resetBlock.txe = true := rfl
@[simp] theorem State.resetBlock_adcStatus : s.resetBlock.adcStatus = .ready := rfl
@[simp] theorem State.resetBlock_adcStart : s.resetBlock.adcStart = false := rfl
@[simp] theorem State.resetBlock_err : s.resetBlock.err = false := rfl
@[simp] theorem State.resetBlock_errcode : s.resetBlock.errcode = 0 := rfl
@[simp] theorem State.resetBlock_txOut : s.resetBlock.txOut = [] := rfl
@[simp] theorem State.resetBlock_fgOut : s.resetBlock.fgOut = [] := rfl
@[simp] theorem State.resetBlock_fpc : s.resetBlock.fpc = 0 := rfl

/-! ### popTurn -/

@[simp] theorem State.popTurn_config : s.popTurn.config = s.config := by unfold State.popTurn; split <;> rfl
@[simp] theorem State.popTurn_program : s.popTurn.program = s.program := by unfold State.popTurn; split <;> rfl
@[simp] theorem State.popTurn_rx : s.popTurn.rx = s.rx := by unfold State.popTurn; split <;> rfl
@[simp] theorem State.popTurn_tx : s.popTurn.tx = s.tx := by unfold State.popTurn; split <;> rfl
@[simp] theorem State.popTurn_adc : s.popTurn.adc = s.adc := by unfold State.popTurn; split <;> rfl
@[simp] theorem State.popTurn_txie : s.popTurn.txie = s.txie := by unfold State.popTurn; split <;> rfl
@[simp] theorem State.popTurn_txe : s.popTurn.txe = s.txe := by unfold State.popTurn; split <;> rfl
@[simp] theorem State.popTurn_adcStatus : s.popTurn.adcStatus = s.adcStatus := by unfold State.popTurn; split <;> rfl
@[simp] theorem State.popTurn_adcStart : s.popTurn.adcStart = s.adcStart := by unfold State.popTurn; split <;> rfl
@[simp] theorem State.popTurn_err : s.popTurn.err = s.err := by unfold State.popTurn; split <;> rfl
@[simp] theorem State.popTurn_errcode : s.popTurn.errcode = s.errcode := by unfold State.popTurn; split <;> rfl
@[simp] theorem State.popTurn_txOut : s.popTurn.txOut = s.txOut := by unfold State.popTurn; split <;> rfl
@[simp] theorem State.popTurn_fgOut : s.popTurn.fgOut = s.fgOut := by unfold State.popTurn; split <;> rfl
@[simp] theorem State.popTurn_fpc : s.popTurn.fpc = s.fpc := by unfold State.popTurn; split <;> rfl

/-- Taking a listed turn: the schedule loses its first turn. -/
theorem State.popTurn_of_cons {t : Turn} {l : List Turn} (h : s.schedule = t :: l) : s.popTurn = { s with schedule := l } := by
  simp [State.popTurn, h]

/-- Taking a turn past the end of the schedule: one more free turn is drawn. -/
theorem State.popTurn_of_nil (h : s.schedule = []) : s.popTurn = { s with draws := s.draws + 1 } := by
  simp [State.popTurn, h]

/-- A listed turn is the next one. -/
theorem State.nextTurn_of_cons {t : Turn} {l : List Turn} (h : s.schedule = t :: l) : s.nextTurn = t := by
  simp [State.nextTurn, h]

end Sys2Proof.Machine
end

