-- ==== Sys2Proof/Laws/Ops.lean ====
section
/-!
SUPPORT. For each shared operation, once, everything it can do: the ring buffer's CONSUME and PRODUCE, the instructions that
can hold or stop, a presented command, and a turn.
-/
namespace Sys2Proof.Machine

open Host (Outcome)

variable {n : Nat} {c : Capacity} {r r' : RingBuffer n} {v : BitVec n} {s t : State}

/-! ### Ring buffers -/

@[simp] theorem RingBuffer.produce_head : (r.produce c v).head = indexSucc c r.head := rfl
@[simp] theorem RingBuffer.produce_tail : (r.produce c v).tail = r.tail := rfl
@[simp] theorem RingBuffer.produce_storage :
    (r.produce c v).storage = Memory.write r.storage (indexSucc c r.head).toNat v := rfl
@[simp] theorem RingBuffer.advance_head : (r.advance c).head = r.head := rfl
@[simp] theorem RingBuffer.advance_tail : (r.advance c).tail = indexSucc c r.tail := rfl
@[simp] theorem RingBuffer.advance_storage : (r.advance c).storage = r.storage := rfl

@[simp] theorem RingBuffer.isEmpty_iff : r.isEmpty = true ↔ r.head = r.tail := by simp [RingBuffer.isEmpty]
@[simp] theorem RingBuffer.isFull_iff : r.isFull c = true ↔ indexSucc c r.head = r.tail := by simp [RingBuffer.isFull]

/-- PRODUCE keeps the storage's canonical form. -/
theorem RingBuffer.produce_wf (h : Memory.wf r.storage) : Memory.wf (r.produce c v).storage := Memory.write_wf _ _ h

/-- CONSUME holds exactly on an empty buffer. -/
theorem RingBuffer.consume_held : r.consume c = .held ↔ r.head = r.tail := by
  unfold RingBuffer.consume
  split
  · simp_all
  · cases h : r.front c <;> simp_all

/-- CONSUME finds no element exactly when the buffer is not empty and the slot after the tail was never written. -/
theorem RingBuffer.consume_unwritten : r.consume c = .unwritten ↔ r.head ≠ r.tail ∧ r.front c = none := by
  unfold RingBuffer.consume
  split
  · simp_all
  · cases h : r.front c <;> simp_all

/-- CONSUME takes the element in the slot after the tail, and advances the tail. -/
theorem RingBuffer.consume_took :
    r.consume c = .took v r' ↔ r.head ≠ r.tail ∧ r.front c = some v ∧ r' = r.advance c := by
  unfold RingBuffer.consume
  split
  · simp_all
  · cases h : r.front c
    · simp
    · simp only [Consumed.took.injEq, Option.some.injEq]
      exact ⟨fun ⟨h1, h2⟩ => ⟨‹_›, h1, h2.symm⟩, fun ⟨_, h1, h2⟩ => ⟨h1, h2.symm⟩⟩

/-! ### Instructions that can hold or stop -/

/-- RX.READ gives a next state by holding on an empty buffer, or by consuming one byte. -/
theorem execRxRead_next (h : execRxRead s = .next t) :
    (s.rx.head = s.rx.tail ∧ t = s) ∨
      ∃ b, s.rx.head ≠ s.rx.tail ∧ s.rx.front s.config.cRX = some b ∧
        t = ((s.setRx (s.rx.advance s.config.cRX)).emitFg (.byte b)).completeFg := by
  unfold execRxRead hold at h
  split at h
  · cases h; exact .inl ⟨RingBuffer.consume_held.mp ‹_›, rfl⟩
  · cases h
  · obtain ⟨h1, h2, rfl⟩ := RingBuffer.consume_took.mp ‹_›
    cases h; exact .inr ⟨_, h1, h2, rfl⟩

/-- ADC.READ gives a next state by holding on an empty buffer, or by consuming one sample. -/
theorem execAdcRead_next (h : execAdcRead s = .next t) :
    (s.adc.head = s.adc.tail ∧ t = s) ∨
      ∃ d, s.adc.head ≠ s.adc.tail ∧ s.adc.front s.config.cADC = some d ∧
        t = ((s.setAdc (s.adc.advance s.config.cADC)).emitFg (.sample d)).completeFg := by
  unfold execAdcRead hold at h
  split at h
  · cases h; exact .inl ⟨RingBuffer.consume_held.mp ‹_›, rfl⟩
  · cases h
  · obtain ⟨h1, h2, rfl⟩ := RingBuffer.consume_took.mp ‹_›
    cases h; exact .inr ⟨_, h1, h2, rfl⟩

/-- TX.WRITE gives a next state by holding on a full buffer, or by producing one byte and arming the interrupt. -/
theorem execTxWrite_next {d : Byte} (h : execTxWrite d s = .next t) :
    (indexSucc s.config.cTX s.tx.head = s.tx.tail ∧ t = s) ∨
      (indexSucc s.config.cTX s.tx.head ≠ s.tx.tail ∧
        t = ((s.setTx (s.tx.produce s.config.cTX d)).setTxie true).completeFg) := by
  unfold execTxWrite hold at h
  split at h
  · cases h; exact .inl ⟨RingBuffer.isFull_iff.mp ‹_›, rfl⟩
  · cases h; exact .inr ⟨fun e => ‹¬ _› (RingBuffer.isFull_iff.mpr e), rfl⟩

/-- TX.EVT gives a next state only while requested: it disarms on an empty buffer, or sends one byte. -/
theorem execTxEvt_next (h : execTxEvt s = .next t) :
    s.txie = true ∧ s.txe = true ∧
      ((s.tx.head = s.tx.tail ∧ t = s.setTxie false) ∨
        ∃ b, s.tx.head ≠ s.tx.tail ∧ s.tx.front s.config.cTX = some b ∧
          t = ((s.setTx (s.tx.advance s.config.cTX)).emitTx b).setTxe false) := by
  unfold execTxEvt at h
  split at h
  · have hq : s.txie = true ∧ s.txe = true := by simpa [State.irqTxReq] using ‹s.irqTxReq = true›
    refine ⟨hq.1, hq.2, ?_⟩
    split at h
    · cases h; exact .inl ⟨RingBuffer.consume_held.mp ‹_›, rfl⟩
    · cases h
    · obtain ⟨h1, h2, rfl⟩ := RingBuffer.consume_took.mp ‹_›
      cases h; exact .inr ⟨_, h1, h2, rfl⟩
  · cases h

/-- TX.TXE gives a next state only while the transmit register is not empty. -/
theorem execTxTxe_next (h : execTxTxe s = .next t) : s.txe = false ∧ t = s.setTxe true := by
  unfold execTxTxe at h
  cases hx : s.txe
  · rw [hx] at h; cases h; exact ⟨rfl, rfl⟩
  · rw [hx] at h; cases h

/-- ADC.EVT gives a next state only while a conversion is in flight. -/
theorem execAdcEvt_next {d : Sample} (h : execAdcEvt d s = .next t) :
    s.adcStart = true ∧
      t = ((s.setAdc (s.adc.produce s.config.cADC d)).setAdcStatus .ready).setAdcStart false := by
  unfold execAdcEvt at h
  split at h
  · cases h; exact ⟨by simpa [State.adcInflight] using ‹s.adcInflight = true›, rfl⟩
  · cases h

/-! ### Presented commands and turns -/

/-- A decoded instruction is on its own port. -/
theorem decode_port {p : Port} {w : AdcWidth} {k : Command} {i : Instr} (h : decode p w k = .instr i) : i.port = p := by
  unfold decode at h
  split at h
  · cases h
  · rename_i j _
    split at h
    · rename_i hp
      unfold attachData at h
      split at h
      · cases h; exact hp
      · split at h
        · cases h; rw [← hp]; cases j <;> rfl
        · cases h
      · cases h
      · cases h
    · cases h

/-- A presented command gives a next state as its instruction does, or as IllegalCommand. -/
theorem present_next {p : Port} {k : Command} (h : present p k s = .next t) :
    (∃ i, decode p s.config.wADC k = .instr i ∧ exec i s = .next t) ∨
      (decode p s.config.wADC k = .illegal ∧ t = s.raiseIllegal p) := by
  unfold present at h
  split at h
  · exact .inl ⟨_, ‹_›, h⟩
  · cases h; exact .inr ⟨‹_›, rfl⟩
  · cases h

/-- Everything a turn that gives a next state can do: an instruction the decoder read on its port, IllegalCommand, a foreground
with no command left, or reset. -/
theorem stepTurn_next {u : Turn} (h : stepTurn u s = .next t) :
    (∃ p k i, (u = .event k ∧ p = .event ∨ u = .fg ∧ p = .fg ∧ s.program[s.fpc]? = some k) ∧
        decode p s.config.wADC k = .instr i ∧ exec i s = .next t) ∨
    (∃ p k, (u = .event k ∧ p = .event ∨ u = .fg ∧ p = .fg ∧ s.program[s.fpc]? = some k) ∧
        decode p s.config.wADC k = .illegal ∧ t = s.raiseIllegal p) ∨
    (u = .fg ∧ s.program[s.fpc]? = none ∧ t = s) ∨
    (u = .reset ∧ t = s.resetBlock) := by
  cases u with
  | fg =>
    simp only [stepTurn, stepForeground] at h
    split at h
    · rename_i k hk
      rcases present_next h with ⟨i, h1, h2⟩ | ⟨h1, h2⟩
      · exact .inl ⟨.fg, k, i, .inr ⟨rfl, rfl, hk⟩, h1, h2⟩
      · exact .inr (.inl ⟨.fg, k, .inr ⟨rfl, rfl, hk⟩, h1, h2⟩)
    · cases h; exact .inr (.inr (.inl ⟨rfl, ‹_›, rfl⟩))
  | event k =>
    rcases present_next h with ⟨i, h1, h2⟩ | ⟨h1, h2⟩
    · exact .inl ⟨.event, k, i, .inl ⟨rfl, rfl⟩, h1, h2⟩
    · exact .inr (.inl ⟨.event, k, .inl ⟨rfl, rfl⟩, h1, h2⟩)
  | reset => cases h; exact .inr (.inr (.inr ⟨rfl, rfl⟩))

end Sys2Proof.Machine
end

