-- ==== Sys2Proof/Laws/PerInstr.lean ====
section
/-!
SUPPORT. A family of statements made per instruction: the fields P and Z of the encoded command word (spec/30_encoding.md
R71, R74).
-/
namespace Sys2Proof.Laws.PortField

/-- Bit 7 of the encoded word names the instruction's port, and bits 1 and 0 are zero. -/
def Statement (i : Instr) : Prop :=
  (encode i).word.getLsbD 7 = decide (i.port = .event) ∧ (encode i).word.getLsbD 1 = false ∧ (encode i).word.getLsbD 0 = false

theorem rxRead : Statement .rxRead := by unfold Statement; decide
theorem rxEmpty : Statement .rxEmpty := by unfold Statement; decide
theorem txEmpty : Statement .txEmpty := by unfold Statement; decide
theorem txWrite (d : Byte) : Statement (.txWrite d) := by
  change Statement (.txWrite 0); unfold Statement; decide
theorem adcRead : Statement .adcRead := by unfold Statement; decide
theorem adcEmpty : Statement .adcEmpty := by unfold Statement; decide
theorem adcStart : Statement .adcStart := by unfold Statement; decide
theorem adcStatus : Statement .adcStatus := by unfold Statement; decide
theorem rxEvt (d : Byte) : Statement (.rxEvt d) := by
  change Statement (.rxEvt 0); unfold Statement; decide
theorem txEvt : Statement .txEvt := by unfold Statement; decide
theorem txTxe : Statement .txTxe := by unfold Statement; decide
theorem adcEvt (d : Sample) : Statement (.adcEvt d) := by
  change Statement (.adcEvt 0); unfold Statement; decide

end Sys2Proof.Laws.PortField
end

