-- ==== Sys2Proof/Tests/Slice0.lean ====
section
/-!
SUPPORT. Tests of one step each, with results from spec/95_test_vectors.md (named by its vector numbers) or worked out by hand
from the spec's encodings, and for every statement with hypotheses a witness that meets them.
-/
namespace Sys2Proof.Tests

open Sys2Proof.Machine Host

/-- A block with capacities 4, 4, 2 and 16-bit samples: the configurations of L2.2 to L2.4. -/
def base : State := State.resetWith { cRX := .c4, cTX := .c4, cADC := .c2, wADC := .w16 }

/-- A ring buffer at two indices. -/
def ring {n : Nat} (h t : BitVec 8) (m : Memory n) : RingBuffer n := { head := h, tail := t, storage := m }

def rxAt (h t : BitVec 8) (m : Memory 8) : State := { base with rx := ring h t m }
def txAt (h t : BitVec 8) (m : Memory 8) (ie e : Bool) : State := { base with tx := ring h t m, txie := ie, txe := e }
def adcAt (h t : BitVec 8) (m : Memory 16) (st : AdcStatus) (b : Bool) : State :=
  { base with adc := ring h t m, adcStatus := st, adcStart := b }

/-- One projection of a next state, none after a fault or a refusal. -/
def after {α : Type} (o : Outcome State Fault Refusal) (f : State → α) : Option α :=
  match o with
  | .next t    => some (f t)
  | .fault _   => none
  | .refused _ => none

/-- The reason of a refusal. -/
def refusal (o : Outcome State Fault Refusal) : Option Refusal :=
  match o with
  | .next _    => none
  | .fault _   => none
  | .refused r => some r

/-! ### Well-formedness -/

/-- The one check there is: ADC.EVT's operand against W_ADC (R75, R83). -/
theorem test_wellFormed_refuses_wide_sample :
    (Instr.adcEvt 0x100).wellFormed .w8 = false ∧ (Instr.adcEvt 0xFF).wellFormed .w8 = true ∧
    (Instr.adcEvt 0xFFFF).wellFormed .w16 = true := by decide

/-! ### Decoding: words written as P CH FN Z from 30_encoding.md sections 1 to 3 -/

theorem test_decode_receive :
    decodeWord 0b00000000 = some .rxRead ∧ decodeWord 0b00000100 = some .rxEmpty ∧
    decode .event .w16 ⟨0b10000000, some 0x48⟩ = .instr (.rxEvt 0x48) := by decide

theorem test_decode_transmit :
    decodeWord 0b00100100 = some .txEmpty ∧ decode .fg .w8 ⟨0b00101000, some 0x48⟩ = .instr (.txWrite 0x48) ∧
    decodeWord 0b10100000 = some .txEvt ∧ decodeWord 0b10100100 = some .txTxe := by decide

theorem test_decode_sampling :
    decodeWord 0b01000000 = some .adcRead ∧ decodeWord 0b01000100 = some .adcEmpty ∧
    decodeWord 0b01001100 = some .adcStart ∧ decodeWord 0b01010000 = some .adcStatus ∧
    decode .event .w16 ⟨0b11000000, some 0x03FF⟩ = .instr (.adcEvt 0x03FF) ∧
    decode .event .w8 ⟨0b11000000, some 0xFF⟩ = .instr (.adcEvt 0xFF) := by decide

/-- L2.5, the foreground rows. -/
theorem test_decode_illegal_on_foreground :
    ∀ w ∈ [(0x01 : Byte), 0x03, 0x08, 0x20, 0x2C, 0x48, 0x54, 0x60, 0x7C, 0x80, 0xA0, 0xFF],
      decode .fg .w16 ⟨w, none⟩ = .illegal := by decide

/-- L2.5, the event rows. -/
theorem test_decode_illegal_on_event :
    ∀ w ∈ [(0x84 : Byte), 0xA8, 0xC4, 0x00, 0xFF], decode .event .w16 ⟨w, none⟩ = .illegal := by decide

theorem test_table_words :
    decodeTableWord 8 0x50 = some .adcStatus ∧ decodeTableWord 16 0x4828 = some (.txWrite 0x48) ∧
    decodeTableWord 24 0x03FFC0 = some (.adcEvt 0x03FF) ∧ decodeTableWord 8 0x60 = none := by decide

/-! ### Ring buffer, L2.1 -/

/-- V1, V3: a PRODUCE wraps the head; at capacity 2 on a full buffer it writes the tail's slot and reads as empty. -/
theorem test_produce :
    (ring 7 3 [] : RingBuffer 8).produce .c8 0x41 = ring 0 3 [(0, 0x41)] ∧
    (ring 1 0 [(1, 0xAA)] : RingBuffer 8).produce .c2 0xBB = ring 0 0 [(0, 0xBB), (1, 0xAA)] := by decide

/-- V6, V7, V8. -/
theorem test_consume :
    (ring 0 7 [(0, 0x11)] : RingBuffer 8).consume .c8 = .took 0x11 (ring 0 0 [(0, 0x11)]) ∧
    (ring 5 5 [] : RingBuffer 8).consume .c8 = .held ∧
    (ring 255 254 [(255, 0x22)] : RingBuffer 8).consume .c256 = .took 0x22 (ring 255 255 [(255, 0x22)]) := by decide

/-- V9 to V16. -/
theorem test_predicates :
    (ring 255 0 [] : RingBuffer 8).isFull .c256 = true ∧ (ring 7 0 [] : RingBuffer 8).isFull .c8 = true ∧
    (ring 6 0 [] : RingBuffer 8).isFull .c8 = false ∧ (ring 0 1 [] : RingBuffer 8).isFull .c8 = true ∧
    (ring 2 3 [] : RingBuffer 8).isFull .c4 = true ∧ (ring 1 1 [] : RingBuffer 8).isEmpty = true ∧
    (ring 1 1 [] : RingBuffer 8).isFull .c2 = false ∧ (ring 1 6 [] : RingBuffer 8).pend .c8 = 3 ∧
    (ring 6 1 [] : RingBuffer 8).pend .c8 = 5 := by decide

/-! ### Receive Channel, L2.2 -/

/-- R-1. -/
theorem test_rxEvt : after (exec (.rxEvt 0x48) base) (·.rx) = some (ring 1 0 [(1, 0x48)]) := by decide

/-- R-6: overflow. -/
theorem test_rxEvt_overflow :
    after (exec (.rxEvt 0x5A) (rxAt 0 1 [(0, 1), (2, 2), (3, 3)])) (fun t => (t.rx.head, t.rx.tail, Memory.read t.rx.storage 1))
      = some (1, 1, some 0x5A) := by decide

/-- R-2, R-9. -/
theorem test_rxRead :
    after (exec .rxRead (rxAt 1 0 [(1, 0x48)])) (fun t => (t.rx.tail, t.fgOut, t.fpc)) = some (1, [.byte 0x48], 1) ∧
    after (exec .rxRead (rxAt 0 3 [(0, 7)])) (fun t => (t.rx.tail, t.fgOut)) = some (0, [.byte 7]) := by decide

/-- R-3: it holds. -/
theorem test_rxRead_holds : exec .rxRead (rxAt 1 1 [(1, 0x48)]) = .next (rxAt 1 1 [(1, 0x48)]) := by rfl

/-- R-4, R-5. -/
theorem test_rxEmpty :
    after (exec .rxEmpty (rxAt 1 1 [])) (·.fgOut) = some [.bit 1] ∧
    after (exec .rxEmpty (rxAt 2 1 [])) (·.fgOut) = some [.bit 0] := by decide

/-! ### Transmit Channel, L2.3 -/

/-- T-1, T-13. -/
theorem test_txWrite :
    after (exec (.txWrite 0x41) base) (fun t => (t.tx, t.txie, t.fpc)) = some (ring 1 0 [(1, 0x41)], true, 1) ∧
    after (exec (.txWrite 0x44) (txAt 3 3 [] false true)) (fun t => (t.tx, t.txie)) = some (ring 0 3 [(0, 0x44)], true) := by
  decide

/-- T-8: it holds. T-9: TXE is left alone. -/
theorem test_txWrite_full :
    after (exec (.txWrite 0x42) (txAt 3 0 [(1, 1), (2, 2), (3, 3)] true false)) (fun t => (t.tx.head, t.fpc)) = some (3, 0) ∧
    after (exec (.txWrite 0x42) (txAt 2 0 [(1, 1), (2, 2)] true false)) (fun t => (t.tx.head, t.txie, t.txe))
      = some (3, true, false) := by decide

/-- T-2, T-5. -/
theorem test_txEvt :
    after (exec .txEvt (txAt 1 0 [(1, 0x41)] true true)) (fun t => (t.tx.tail, t.txOut, t.txie, t.txe))
      = some (1, [0x41], true, false) ∧
    after (exec .txEvt (txAt 1 1 [(1, 0x41)] true true)) (fun t => (t.tx.tail, t.txOut, t.txie, t.txe))
      = some (1, [], false, true) := by decide

/-- T-3, T-7: not enabled. -/
theorem test_txEvt_not_enabled :
    refusal (exec .txEvt (txAt 1 1 [] true false)) = some (.eventNotEnabled "tx.evt") ∧
    refusal (exec .txEvt (txAt 1 1 [] false true)) = some (.eventNotEnabled "tx.evt") := by decide

/-- T-4, T-6. -/
theorem test_txTxe :
    after (exec .txTxe (txAt 1 1 [] true false)) (fun t => (t.txie, t.txe)) = some (true, true) ∧
    refusal (exec .txTxe (txAt 1 1 [] false true)) = some (.eventNotEnabled "tx.txe") := by decide

/-- T-11, T-12. -/
theorem test_txEmpty :
    after (exec .txEmpty (txAt 2 1 [] true false)) (·.fgOut) = some [.bit 0] ∧
    after (exec .txEmpty (txAt 2 2 [] true false)) (·.fgOut) = some [.bit 1] := by decide

/-! ### Sampling Channel, L2.4 -/

/-- A-1, and P3 step 3. -/
theorem test_adcStatus :
    after (exec .adcStatus base) (fun t => (t.fgOut, t.adcStatus)) = some ([.bit 0], .ready) ∧
    after (exec .adcStatus (adcAt 0 0 [] .pending true)) (·.fgOut) = some [.bit 1] := by decide

/-- A-2, A-9. -/
theorem test_adcStart :
    after (exec .adcStart base) (fun t => (t.adc.head, t.adcStatus, t.adcStart, t.fpc)) = some (0, .pending, true, 1) ∧
    after (exec .adcStart (adcAt 1 0 [(1, 5)] .ready false)) (fun t => (t.adc.head, t.adcStatus)) = some (1, .pending) := by
  decide

/-- A-4, A-10. -/
theorem test_adcEvt :
    after (exec (.adcEvt 0x03FF) (adcAt 0 0 [] .pending true)) (fun t => (t.adc, t.adcStatus, t.adcStart))
      = some (ring 1 0 [(1, 0x03FF)], .ready, false) ∧
    after (exec (.adcEvt 2) (adcAt 1 0 [(1, 5)] .pending true)) (fun t => t.adc) = some (ring 0 0 [(0, 2), (1, 5)]) := by decide

/-- A-5: not enabled. -/
theorem test_adcEvt_not_enabled :
    refusal (exec (.adcEvt 1) (adcAt 1 0 [(1, 0x03FF)] .ready false)) = some (.eventNotEnabled "adc.evt_dW") := by decide

/-- A-6. -/
theorem test_adcRead :
    after (exec .adcRead (adcAt 1 0 [(1, 0x03FF)] .pending true)) (fun t => (t.adc.tail, t.fgOut, t.adcStatus))
      = some (1, [.sample 0x03FF], .pending) := by decide

/-- A-8: it holds. -/
theorem test_adcRead_holds : exec .adcRead (adcAt 1 1 [] .ready false) = .next (adcAt 1 1 [] .ready false) := by rfl

/-- A-11. -/
theorem test_adcEmpty :
    after (exec .adcEmpty (adcAt 0 0 [] .ready false)) (·.fgOut) = some [.bit 1] ∧
    after (exec .adcEmpty (adcAt 1 0 [] .ready false)) (·.fgOut) = some [.bit 0] := by decide

/-! ### Faults and reset, L2.6 -/

/-- F-1, F-2. -/
theorem test_illegal_on_foreground :
    after (present .fg ⟨0x08, none⟩ base) (fun t => (t.err, t.errcode, t.fpc)) = some (true, 1, 1) ∧
    after (present .fg ⟨0x60, none⟩ { base with err := true, errcode := 1, fpc := 1 }) (fun t => (t.err, t.errcode, t.fpc))
      = some (true, 1, 2) := by decide

/-- F-3, F-4. -/
theorem test_illegal_on_event :
    after (present .event ⟨0x84, none⟩ { base with fpc := 5 }) (fun t => (t.err, t.errcode, t.fpc)) = some (true, 1, 5) ∧
    after (present .fg ⟨0x04, none⟩ { base with err := true, errcode := 1, fpc := 2 }) (fun t => (t.err, t.fpc, t.fgOut))
      = some (true, 3, [.bit 1]) := by decide

/-- F-5. -/
theorem test_reset :
    stepTurn .reset { txAt 1 0 [(1, 2)] true false with err := true, errcode := 1, fpc := 9 } = .next base := by rfl

/-! ### Placing an instruction and the step -/

theorem test_step_places_foreground :
    after (step (State.reset.withFetchWord 16 0x4828)) (fun t => (t.tx.storage, t.fpc, t.schedule)) = some ([(1, 0x48)], 1, []) := by
  decide

theorem test_step_places_event :
    after (step (State.reset.withFetchWord 16 0x4880)) (fun t => (t.rx.storage, t.fpc, t.draws)) = some ([(1, 0x48)], 0, 0) := by
  decide

/-! ### Configuration and assembler -/

/-- R7, R8: 1, 3 and 512 are no capacities, and 12 no width. -/
theorem test_build :
    Config.build? 2 256 8 8 8 16 = some { cRX := .c2, cTX := .c256, cADC := .c8, wADC := .w16 } ∧
    Config.build? 1 8 8 8 8 8 = none ∧ Config.build? 8 3 8 8 8 8 = none ∧ Config.build? 8 8 512 8 8 8 = none ∧
    Config.build? 8 8 8 8 8 12 = none ∧ Config.build? 8 8 8 16 8 8 = none := by decide

/-- 30_encoding.md section 4, `FG: tx.write 'H' ; send`, listed `28 48`. -/
theorem test_assemble :
    assembleLine .w16 (['F', 'G', ':', ' ', 't', 'x', '.', 'w', 'r', 'i', 't', 'e', ' ', quoteChar, 'H', quoteChar, ' ', ';', 's'])
      = .ok (.txWrite 0x48) ∧
    listing .w16 (.txWrite 0x48) = ['2', '8', ' ', '4', '8'] ∧
    listing .w16 (.adcEvt 0x03FF) = ['C', '0', ' ', '0', '3', 'F', 'F'] ∧
    listing .w8 (.adcEvt 0x7F) = ['C', '0', ' ', '7', 'F'] := ⟨by rfl, by rfl, by rfl, by rfl⟩

/-- The prefix must match the mnemonic, and an operand is never truncated (R82, R83). -/
theorem test_assemble_refuses :
    assembleLine .w16 ['E', 'N', 'V', ':', 't', 'x', '.', 'e', 'v', 't'] = .error .agentMismatch ∧
    assembleLine .w16 ['t', 'x', '.', 'w', 'r', 'i', 't', 'e', ' ', '2', '5', '6'] = .error .operandTooWide ∧
    assembleLine .w16 ['t', 'x', '.', 'w', 'r', 'i', 't', 'e'] = .error .missingOperand ∧
    assembleLine .w8 ['a', 'd', 'c', '.', 'e', 'v', 't', ' ', '0', 'x', '1', '0', '0'] = .error .operandTooWide :=
  ⟨by rfl, by rfl, by rfl, by rfl⟩

/-! ### Witnesses: for each statement with hypotheses, states and operands that meet them, each clause at a boundary value -/

/-- `after` says that an outcome is a next state. -/
theorem next_of_after {o : Outcome State Fault Refusal} (h : (after o fun _ => ()) = some ()) : ∃ t, o = .next t := by
  cases o with
  | next t => exact ⟨t, rfl⟩
  | fault _ => cases h
  | refused _ => cases h

/-- A state with no result words meets the invariant if the decidable clauses hold of it. -/
theorem inv_of {s : State}
    (hr : s.rx.head.toNat < s.config.cRX.size ∧ s.rx.tail.toNat < s.config.cRX.size ∧
      (∀ p ∈ s.rx.storage, p.1 < s.config.cRX.size) ∧ Memory.wf s.rx.storage ∧
      ∀ k, k < s.rx.pend s.config.cRX → Memory.read s.rx.storage (s.rx.pendingSlot s.config.cRX k) ≠ none)
    (ht : s.tx.head.toNat < s.config.cTX.size ∧ s.tx.tail.toNat < s.config.cTX.size ∧
      (∀ p ∈ s.tx.storage, p.1 < s.config.cTX.size) ∧ Memory.wf s.tx.storage ∧
      ∀ k, k < s.tx.pend s.config.cTX → Memory.read s.tx.storage (s.tx.pendingSlot s.config.cTX k) ≠ none)
    (ha : s.adc.head.toNat < s.config.cADC.size ∧ s.adc.tail.toNat < s.config.cADC.size ∧
      (∀ p ∈ s.adc.storage, p.1 < s.config.cADC.size) ∧ Memory.wf s.adc.storage ∧
      ∀ k, k < s.adc.pend s.config.cADC → Memory.read s.adc.storage (s.adc.pendingSlot s.config.cADC k) ≠ none)
    (hf : ∀ p ∈ s.adc.storage, fitsWidth s.config.wADC.bits p.2 = true) (hg : s.fgOut = [])
    (h : (s.tx.head ≠ s.tx.tail → s.txie = true) ∧ s.errcode = (if s.err then 1 else 0) ∧ s.fpc ≤ s.program.length) :
    s.Inv :=
  { rx := ⟨hr.1, hr.2.1, hr.2.2.1, hr.2.2.2.1, hr.2.2.2.2⟩, tx := ⟨ht.1, ht.2.1, ht.2.2.1, ht.2.2.2.1, ht.2.2.2.2⟩,
    adc := ⟨ha.1, ha.2.1, ha.2.2.1, ha.2.2.2.1, ha.2.2.2.2⟩, adc_fits := hf, fg_fits := by simp [hg],
    armed := h.1, code := h.2.1, fpc_le := h.2.2 }

/-- Full receive and transmit buffers at the wrap, a conversion in flight, a fault on record. -/
def busy : State :=
  { base with
    rx := ring 0 1 [(0, 1), (2, 2), (3, 3)], tx := ring 3 0 [(1, 1), (2, 2), (3, 3)], adc := ring 1 0 [(1, 0xFFFF)],
    txie := true, adcStatus := .pending, adcStart := true, err := true, errcode := 1,
    program := [⟨0x00, none⟩], schedule := [.event ⟨0xC0, some 7⟩] }

theorem busy_inv : busy.Inv :=
  inv_of (by decide) (by decide) (by decide) (by decide) rfl (by decide)

theorem witness_DecodeOfEncodeIsInstruction :
    (Instr.adcEvt 0xFF).wellFormed .w8 = true ∧ (Instr.adcEvt 0xFFFF).wellFormed .w16 = true ∧
    (Instr.txWrite 0xFF).wellFormed .w8 = true ∧ Instr.rxRead.wellFormed .w8 = true := by decide

theorem witness_EncodeOfDecodeIsCommand :
    decode .event .w8 ⟨0xC0, some 0xFF⟩ = .instr (.adcEvt 0xFF) ∧ decode .fg .w8 ⟨0x00, none⟩ = .instr .rxRead := by decide

/-- Each of Z = 01, Z = 11 and CH = 11, and a legal word of each channel. -/
theorem witness_ReservedFieldsAreIllegal :
    (0x01 : Byte).extractLsb' 0 2 ≠ 0 ∧ (0x03 : Byte).extractLsb' 0 2 ≠ 0 ∧ (0x60 : Byte).extractLsb' 5 2 = 0b11 ∧
    (0xFC : Byte).extractLsb' 5 2 = 0b11 ∧ decodeWord 0x04 = some .rxEmpty ∧ decodeWord 0xA4 = some .txTxe ∧
    decodeWord 0xC0 = some (.adcEvt 0) := by decide

theorem witness_WordOnWrongPortIsIllegal :
    decodeWord 0x80 = some (.rxEvt 0) ∧ decodeWord 0x00 = some .rxRead ∧
    decode .fg base.config.wADC ⟨0x00, none⟩ ≠ .illegal ∧
    ¬((0x80 : Byte).getLsbD 7 = true ↔ Port.fg = .event) ∧ ¬((0x00 : Byte).getLsbD 7 = true ↔ Port.event = .event) := by decide

theorem witness_IllegalCommandEffect :
    decode .fg base.config.wADC ⟨0x08, none⟩ = .illegal ∧ decode .fg base.config.wADC ⟨0xA0, none⟩ = .illegal ∧
    decode .event base.config.wADC ⟨0x84, none⟩ = .illegal ∧ decode .fg base.config.wADC ⟨0x04, none⟩ = .instr .rxEmpty := by
  decide

/-- The narrowest operand that does not fit, for both widths, and the three shapes of a malformed command. -/
theorem witness_MalformedCommandIsRefused :
    decodeWord 0x28 = some (.txWrite 0) ∧ (Instr.txWrite 0).port = .fg ∧ (Instr.txWrite 0).dataWidth .w16 = some 8 ∧
    2 ^ 8 ≤ (0x100 : Sample).toNat ∧ decodeWord 0x00 = some .rxRead ∧ Instr.rxRead.dataWidth .w16 = none ∧
    (some (0 : Sample)) ≠ none ∧ decodeWord 0xC0 = some (.adcEvt 0) ∧ (Instr.adcEvt 0).dataWidth .w8 = some 8 := by decide

theorem witness_SuccessorIsIncrementModuloCapacity :
    ((1 : BitVec 8).toNat < Capacity.c2.size ∧ (1 : BitVec 8).toNat = Capacity.c2.size - 1) ∧
    ((255 : BitVec 8).toNat < Capacity.c256.size ∧ (255 : BitVec 8).toNat = Capacity.c256.size - 1) ∧
    ((0 : BitVec 8).toNat < Capacity.c2.size ∧ (0 : BitVec 8).toNat ≠ Capacity.c2.size - 1) ∧
    (∃ t, exec .rxRead busy = .next t) ∧ ∃ t, exec (.adcEvt 0) busy = .next t :=
  ⟨by decide, by decide, by decide, ⟨_, rfl⟩, ⟨_, rfl⟩⟩

/-- V2 to V4 of L2.1 at capacity 2, and the read after them. -/
def overflowOps : List (RingOp 8) := [.produce 0xAA, .produce 0xBB, .produce 0xCC, .consume]

theorem witness_PendingCountCountsElements :
    ((ring 255 0 [] : RingBuffer 8).head.toNat < Capacity.c256.size ∧
      (ring 255 0 [] : RingBuffer 8).tail.toNat < Capacity.c256.size) ∧
    (∃ v r', (ring 0 7 [(0, 0x11)] : RingBuffer 8).consume .c8 = .took v r') ∧
    ∃ x, (RingBuffer.reset 8).runOps .c2 overflowOps = some x :=
  ⟨by decide, ⟨_, _, rfl⟩, ⟨_, rfl⟩⟩

/-- The counting-law vector of L2.1: capacity 4, ten PRODUCEs; the oldest slot still held is PRODUCE 7's; the CONSUME returns 9. -/
theorem witness_SlotContentLaw :
    ∃ r outs, (RingBuffer.reset 8).runOps .c4 [.produce 1, .produce 2, .produce 3, .produce 4, .produce 5, .produce 6,
        .produce 7, .produce 8, .produce 9, .produce 10] = some (r, outs) ∧
      10 < 7 + Capacity.c4.size ∧ ∃ r', r.consume .c4 = .took 9 r' :=
  ⟨_, _, rfl, by decide, _, rfl⟩

/-- L1.1: three PRODUCEs fill capacity 4, then three CONSUMEs. -/
theorem witness_FifoWithoutOverflow :
    (∃ r, (RingBuffer.reset 8).runOps .c4 [.produce 0x0A, .produce 0x0B, .produce 0x0C, .consume, .consume, .consume]
      = some (r, [0x0A, 0x0B, 0x0C])) ∧
    neverOverflows .c4 0 ([.produce 0x0A, .produce 0x0B, .produce 0x0C, .consume, .consume, .consume] : List (RingOp 8)) :=
  ⟨⟨_, rfl⟩, by simp [neverOverflows, Capacity.size, Capacity.iw]⟩

/-- V3 and V12. -/
theorem witness_OverflowHidesWholeBuffer :
    ((ring 1 0 [] : RingBuffer 8).head.toNat < Capacity.c2.size ∧ (ring 1 0 [] : RingBuffer 8).tail.toNat < Capacity.c2.size ∧
      (ring 1 0 [] : RingBuffer 8).isFull .c2 = true) ∧
    ((ring 0 1 [] : RingBuffer 8).head.toNat < Capacity.c8.size ∧ (ring 0 1 [] : RingBuffer 8).tail.toNat < Capacity.c8.size ∧
      (ring 0 1 [] : RingBuffer 8).isFull .c8 = true) := by decide

/-- A run that overflows RX (capacity 2) and reads, sends a byte, and samples. -/
def allTurns : List Turn :=
  [.event ⟨0x80, some 1⟩, .event ⟨0x80, some 2⟩, .event ⟨0x80, some 3⟩, .fg, .fg, .event ⟨0xA0, none⟩, .fg,
   .event ⟨0xC0, some 9⟩, .fg]

def allConfig : Config := { cRX := .c2, cTX := .c2, cADC := .c2, wADC := .w16 }
def allProgram : List Command := [⟨0x00, none⟩, ⟨0x28, some 0x41⟩, ⟨0x4C, none⟩, ⟨0x40, none⟩]

theorem witness_run_from_reset :
    Turn.reset ∉ allTurns ∧ ∃ t, runTurns (State.boot allConfig allProgram []) allTurns = .next t :=
  ⟨by decide, ⟨_, rfl⟩⟩

theorem witness_IndicesCountProducesAndConsumes :
    Turn.reset ∉ [Turn.event ⟨0x80, some 1⟩] ∧
    ∃ t, runTurns (State.boot allConfig [] []) [.event ⟨0x80, some 1⟩] = .next t ∧ t.rx.isEmpty = false :=
  ⟨by decide, ⟨_, rfl, rfl⟩⟩

theorem witness_RunsFollowRingHistories :
    Turn.reset ∉ [Turn.fg, .event ⟨0xC0, some 7⟩] ∧ ∃ t, runTurns busy [.fg, .event ⟨0xC0, some 7⟩] = .next t :=
  ⟨by decide, ⟨_, rfl⟩⟩

theorem witness_StepKeepsInvariant : busy.Inv ∧ ∃ t, step busy = .next t := ⟨busy_inv, ⟨_, rfl⟩⟩

theorem witness_LegalCommandsNeverStop :
    busy.Inv ∧ Instr.port .rxRead = .fg ∧ isEnabled .txEvt busy = true ∧ isEnabled (.adcEvt 0) busy = true ∧
    isEnabled .txTxe { busy with txe := false } = true := ⟨busy_inv, by decide⟩

theorem witness_StepNeverFaults : busy.Inv := busy_inv

/-- A full buffer, so that the write after the send is the last that fits. -/
theorem witness_TransmitNeverOverflows :
    busy.Inv ∧ Turn.reset ∉ [Turn.event ⟨0xA0, none⟩, .event ⟨0xA4, none⟩] ∧
    ∃ t, runTurns busy [.event ⟨0xA0, none⟩, .event ⟨0xA4, none⟩] = .next t :=
  ⟨busy_inv, by decide, ⟨_, rfl⟩⟩

/-- The schedule of P4. -/
theorem witness_TransmittedBytesAreWrittenBytes :
    Turn.reset ∉ [Turn.fg, .event ⟨0xA0, none⟩, .fg, .event ⟨0xA4, none⟩, .event ⟨0xA0, none⟩] ∧
    after (runTurns (State.boot allConfig [⟨0x28, some 0x41⟩, ⟨0x28, some 0x42⟩] [])
      [.fg, .event ⟨0xA0, none⟩, .fg, .event ⟨0xA4, none⟩, .event ⟨0xA0, none⟩]) (·.txOut) = some [0x41, 0x42] := by decide

theorem witness_RxReadReturnsNextByte :
    busy.rx.head ≠ busy.rx.tail ∧ Memory.read busy.rx.storage (indexSucc busy.config.cRX busy.rx.tail).toNat = some 2 := by decide

theorem witness_AdcReadReturnsNextSample :
    busy.adc.head ≠ busy.adc.tail ∧
    Memory.read busy.adc.storage (indexSucc busy.config.cADC busy.adc.tail).toNat = some 0xFFFF := by decide

theorem witness_ForegroundHoldsWhileBlocked :
    base.rx.head = base.rx.tail ∧ base.adc.head = base.adc.tail ∧ indexSucc busy.config.cTX busy.tx.head = busy.tx.tail ∧
    (let s : State := { busy with schedule := [.fg], program := [⟨0x28, some 5⟩] }
     s.nextTurn = .fg ∧ s.program[s.fpc]? = some ⟨0x28, some 5⟩ ∧
     decode .fg s.config.wADC ⟨0x28, some 5⟩ = .instr (.txWrite 5) ∧ isEnabled (.txWrite 5) s = false) := by decide

/-- One free slot, at the wrap. -/
theorem witness_TxWriteProducesAndArms :
    let s := txAt 3 1 [(2, 2), (3, 3)] true false
    indexSucc s.config.cTX s.tx.head ≠ s.tx.tail := by decide

theorem witness_TxEvtSendsOrDisarms :
    (busy.txie = true ∧ busy.txe = true ∧ busy.tx.head ≠ busy.tx.tail ∧
      Memory.read busy.tx.storage (indexSucc busy.config.cTX busy.tx.tail).toNat = some 1) ∧
    (let s := txAt 1 1 [] true true
     s.txie = true ∧ s.txe = true ∧ s.tx.head = s.tx.tail) := by decide

theorem witness_TxTxeSetsRegisterEmpty : (txAt 1 1 [] true false).txe = false := rfl

theorem witness_AdcEvtDeliversResult : busy.adcStart = true := rfl

theorem witness_DisabledEventsAreRefused :
    ¬(base.txie = true ∧ base.txe = true) ∧ ¬((txAt 1 0 [] true false).txie = true ∧ (txAt 1 0 [] true false).txe = true) ∧
    base.txe = true ∧ base.adcStart = false ∧ busy.txie = true ∧ busy.txe = true ∧ (txAt 1 1 [] true false).txe = false ∧
    busy.adcStart = true := by decide

theorem witness_FrameOfReads : (∃ t, exec .rxRead busy = .next t) ∧ ∃ t, exec .adcRead busy = .next t :=
  ⟨⟨_, rfl⟩, ⟨_, rfl⟩⟩

theorem witness_FrameOfStateReports :
    (∃ t, exec .rxEmpty busy = .next t) ∧ (∃ t, exec .txEmpty busy = .next t) ∧ (∃ t, exec .adcEmpty busy = .next t) ∧
    ∃ t, exec .adcStatus busy = .next t :=
  ⟨⟨_, rfl⟩, ⟨_, rfl⟩, ⟨_, rfl⟩, ⟨_, rfl⟩⟩

theorem witness_FrameOfProducers :
    (∃ t, exec (.rxEvt 9) busy = .next t) ∧ (∃ t, exec (.txWrite 9) base = .next t) ∧
    (∃ t, exec (.adcEvt 9) busy = .next t) ∧ (0 : Nat) ≠ (indexSucc busy.config.cRX busy.rx.head).toNat ∧
    (0 : Nat) ≠ (indexSucc base.config.cTX base.tx.head).toNat ∧ (1 : Nat) ≠ (indexSucc busy.config.cADC busy.adc.head).toNat :=
  ⟨⟨_, rfl⟩, ⟨_, rfl⟩, ⟨_, rfl⟩, by decide⟩

theorem witness_FrameOfControlEvents :
    (∃ t, exec .txEvt busy = .next t) ∧ (∃ t, exec .txEvt (txAt 1 1 [] true true) = .next t) ∧
    (∃ t, exec .txTxe (txAt 1 1 [] true false) = .next t) ∧ ∃ t, exec .adcStart base = .next t :=
  ⟨⟨_, rfl⟩, ⟨_, rfl⟩, ⟨_, rfl⟩, ⟨_, rfl⟩⟩

/-- A completing command, a held one and a foreground with no command left. -/
theorem witness_ProgramIndexCountsCompletions :
    (∃ t, stepTurn (.event ⟨0x80, some 1⟩) busy = .next t) ∧ (∃ t, stepTurn .fg busy = .next t) ∧
    (∃ t, stepTurn .fg { base with program := [⟨0x00, none⟩] } = .next t) ∧
    fgEnabled { base with program := [⟨0x00, none⟩] } = false ∧
    (∃ t, stepTurn .fg base = .next t) ∧ fgEnabled base = false :=
  ⟨⟨_, rfl⟩, ⟨_, rfl⟩, ⟨_, rfl⟩, by decide, ⟨_, rfl⟩, by decide⟩

theorem witness_GatingStateMachine :
    ((∃ t, exec (.txWrite 1) base = .next t) ∧ base.tx.isFull base.config.cTX = false) ∧
    (∃ t, exec .txEvt busy = .next t) ∧
    (∃ t, stepTurn .fg { base with program := [⟨0x28, some 1⟩] } = .next t ∧ t.txie ≠ base.txie) ∧
    (∃ t, stepTurn (.event ⟨0xA0, none⟩) (txAt 1 1 [] true true) = .next t ∧ t.txie ≠ (txAt 1 1 [] true true).txie) :=
  ⟨⟨⟨_, rfl⟩, by decide⟩, ⟨_, rfl⟩, ⟨_, rfl, by decide⟩, ⟨_, rfl, by decide⟩⟩

theorem witness_GatingHappensOncePerDrain :
    let s := txAt 1 1 [] true true
    let t := txAt 1 1 [] false true
    s.tx.isEmpty = true ∧ exec .txEvt s = .next t ∧
    (Turn.event ⟨0x80, some 1⟩ ≠ .reset ∧ (∃ x, stepTurn (.event ⟨0x80, some 1⟩) t = .next x) ∧
      ∀ d, turnInstr (.event ⟨0x80, some 1⟩) t ≠ some (.txWrite d)) ∧
    (t.tx.isFull t.config.cTX = false ∧ ∃ x y, exec (.txWrite 1) t = .next x ∧ exec (.txWrite 2) x = .next y) :=
  ⟨by decide, rfl, ⟨by decide, ⟨_, rfl⟩, fun d h => by
    have h' : some (Instr.rxEvt 1) = some (.txWrite d) := h
    cases h'⟩, by decide, ⟨_, _, rfl, rfl⟩⟩

theorem witness_SamplingStatusIsSeparateState :
    (∃ t, exec .adcStart base = .next t ∧ t.adcStatus ≠ base.adcStatus) ∧
    (∃ t, exec (.adcEvt 1) busy = .next t ∧ t.adcStart ≠ busy.adcStart) :=
  ⟨⟨_, rfl, by decide⟩, ⟨_, rfl, by decide⟩⟩

theorem witness_FaultFlagIsSticky :
    busy.err = true ∧ (∃ t, stepTurn (.event ⟨0x84, none⟩) busy = .next t) ∧ ∃ t, stepTurn .reset busy = .next t :=
  ⟨rfl, ⟨_, rfl⟩, ⟨_, rfl⟩⟩

theorem witness_ConfigurationNeverChanges :
    (∃ t, step busy = .next t) ∧ ∃ t, step { busy with schedule := [.reset] } = .next t := ⟨⟨_, rfl⟩, ⟨_, rfl⟩⟩

theorem witness_StateAfterReset : ∃ t, stepTurn .reset busy = .next t := ⟨_, rfl⟩

theorem witness_StepRunsDecodedInstruction :
    (let s : State := { busy with schedule := [.fg] }
     s.schedule = .fg :: [] ∧ s.program[s.fpc]? = some ⟨0x00, none⟩ ∧
     decode .fg s.config.wADC ⟨0x00, none⟩ = .instr .rxRead) ∧
    (busy.schedule = .event ⟨0xC0, some 7⟩ :: [] ∧
     decode .event busy.config.wADC ⟨0xC0, some 7⟩ = .instr (.adcEvt 7)) ∧
    ({ busy with schedule := [.reset] } : State).schedule = .reset :: [] ∧ base.schedule = [] := by decide

theorem witness_ChannelsShareNoRingState :
    Instr.channel .txEvt ≠ .rx ∧ Instr.channel (.adcEvt 1) ≠ .tx ∧ Instr.channel (.rxEvt 1) ≠ .adc := by decide

theorem witness_EventsOfDifferentChannelsCommute :
    Instr.port .txEvt = .event ∧ Instr.port (.adcEvt 2) = .event ∧ Instr.channel .txEvt ≠ Instr.channel (.adcEvt 2) ∧
    (∃ a, exec .txEvt busy = .next a) ∧ ∃ b, exec (.adcEvt 2) busy = .next b :=
  ⟨rfl, rfl, by decide, ⟨_, rfl⟩, ⟨_, rfl⟩⟩

theorem witness_SecondStartMerges : ∃ a b, exec .adcStart base = .next a ∧ exec .adcStart a = .next b := ⟨_, _, rfl, rfl⟩

/-- Leaving IDLE; reading the last byte (R-9) and one of three; overflowing a full buffer (R-6). -/
theorem witness_ReceiveStateMachine :
    (base.rx.head.toNat < base.config.cRX.size ∧ base.rx.tail.toNat < base.config.cRX.size ∧
      (∃ t, exec (.rxEvt 1) base = .next t) ∧ base.rx.isEmpty = true) ∧
    (let s := rxAt 0 3 [(0, 7)]
     s.rx.head.toNat < s.config.cRX.size ∧ s.rx.tail.toNat < s.config.cRX.size ∧ (∃ t, exec .rxRead s = .next t) ∧
     s.rx.isEmpty = false ∧ s.rx.pend s.config.cRX = 1) ∧
    (busy.rx.head.toNat < busy.config.cRX.size ∧ busy.rx.tail.toNat < busy.config.cRX.size ∧
      (∃ t, exec .rxRead busy = .next t) ∧ (∃ t, exec (.rxEvt 1) busy = .next t) ∧ busy.rx.isEmpty = false ∧
      busy.rx.pend busy.config.cRX = busy.config.cRX.size - 1) :=
  ⟨⟨by decide, by decide, ⟨_, rfl⟩, by decide⟩, ⟨by decide, by decide, ⟨_, rfl⟩, by decide, by decide⟩,
    ⟨by decide, by decide, ⟨_, rfl⟩, ⟨_, rfl⟩, by decide, by decide⟩⟩

/-- A full transmit buffer of capacity 2 that drains: the byte is sent, the register empties, the handler disarms itself. -/
def draining : State := { State.boot allConfig [] [] with tx := ring 1 0 [(1, 0x41)], txie := true }

def drainTurn : Nat → Turn
  | 0 => .event ⟨0xA0, none⟩
  | 1 => .event ⟨0xA4, none⟩
  | 2 => .event ⟨0xA0, none⟩
  | _ => .fg

def drainState : Nat → State
  | 0 => draining
  | 1 => { draining with tx := ring 1 1 [(1, 0x41)], txOut := [0x41], txe := false }
  | 2 => { draining with tx := ring 1 1 [(1, 0x41)], txOut := [0x41] }
  | _ => { draining with tx := ring 1 1 [(1, 0x41)], txOut := [0x41], txie := false }

theorem witness_FairTransmitterDrains :
    IsRun drainTurn drainState ∧ (drainState 0).Inv ∧ (drainState 0).tx.isFull (drainState 0).config.cTX = true ∧
    (∀ n, (∀ m, n ≤ m → (drainState m).irqTxReq = true) → ∃ m, n ≤ m ∧ turnInstr (drainTurn m) (drainState m) = some .txEvt) ∧
    (∀ n, (∀ m, n ≤ m → (drainState m).txe = false) → ∃ m, n ≤ m ∧ turnInstr (drainTurn m) (drainState m) = some .txTxe) ∧
    ∀ m v, 0 ≤ m → txOp (drainTurn m) (drainState m) ≠ [.produce v] := by
  refine ⟨?_, inv_of (by decide) (by decide) (by decide) (by decide) rfl (by decide), by decide, ?_, ?_, ?_⟩
  · intro n
    match n with
    | 0 | 1 | 2 | n + 3 => rfl
  · intro n h
    exact nomatch (show false = true from h (n + 3) (by omega))
  · intro n h
    exact nomatch (show true = false from h (n + 3) (by omega))
  · intro n d _ h
    match n with
    | 0 => exact nomatch (show [RingOp.consume] = [.produce d] from h)
    | 1 | 2 | n + 3 => exact nomatch (show ([] : List (RingOp 8)) = [.produce d] from h)

theorem witness_OnlyReceiveCanActAtTheEnd :
    let s : State := { rxAt 1 1 [(1, 5)] with program := [⟨0x4C, none⟩], fpc := 1 }
    s.Inv ∧ endOfRun s = true ∧ Instr.port (.rxEvt 1) = .event ∧ ∃ t, exec (.rxEvt 1) s = .next t :=
  ⟨inv_of (by decide) (by decide) (by decide) (by decide) rfl (by decide), by decide, rfl, ⟨_, rfl⟩⟩

theorem witness_ReportsAreIdempotent :
    Instr.adcStatus ∈ [Instr.rxEmpty, .txEmpty, .adcEmpty, .adcStatus] ∧
    ∃ t x, exec .adcStatus busy = .next t ∧ exec .adcStatus t = .next x := ⟨by decide, _, _, rfl, rfl⟩

/-- The widest literal that fits and the narrowest that does not. -/
theorem witness_AssembledOperandFits :
    assembleLine .w8 ['r', 'x', '.', 'r', 'e', 'a', 'd'] = .ok .rxRead ∧
    assembleLine .w8 ['a', 'd', 'c', '.', 'e', 'v', 't', ' ', '2', '5', '5'] = .ok (.adcEvt 0xFF) ∧
    (Instr.adcEvt 0).dataWidth .w8 = some 8 ∧ literalValue (.name ['0', 'x', 'F', 'F']) = some 255 ∧ 255 < 2 ^ 8 ∧
    literalValue (.name ['2', '5', '6']) = some 256 ∧ 2 ^ 8 ≤ 256 :=
  ⟨by rfl, by rfl, by rfl, by rfl, by decide, by rfl, by decide⟩

theorem witness_ListingDeterminesInstruction :
    (Instr.adcEvt 0xFF).wellFormed .w8 = true ∧ listing .w8 (.adcEvt 0xFF) = listing .w8 (.adcEvt 0xFF) := by decide

theorem witness_BuildAcceptsLegalConfigurationsOnly : ∃ cfg, Config.build? 2 256 8 8 8 16 = some cfg := ⟨_, rfl⟩

/-- A command in the middle of a program, and an event. -/
theorem witness_PlacedWordRunsNext :
    decodeTableWord 16 0x4828 = some (.txWrite 0x48) ∧ (Instr.txWrite 0x48).wellFormed base.config.wADC = true ∧
    (Instr.txWrite 0x48).port = .fg ∧ (1 < allProgram.length ∧ 1 ≠ base.fpc) ∧
    decodeTableWord 24 0xFFFFC0 = some (.adcEvt 0xFFFF) ∧ (Instr.adcEvt 0xFFFF).wellFormed base.config.wADC = true ∧
    (Instr.adcEvt 0xFFFF).port = .event := by decide

/-- A buffer of capacity 2 after three PRODUCEs (V2 to V4): P = 3, Q = 0, so the CONSUME of RX.READ skips two elements. -/
def overflowed : State := { State.boot allConfig [⟨0x00, none⟩] [] with rx := ring 1 0 [(0, 0xBB), (1, 0xCC)] }

theorem witness_StepKeepsSlotLaw :
    overflowed.rx.Follows .c2 [0xAA, 0xBB, 0xCC] 0 ∧ (∃ t, stepTurn .fg overflowed = .next t) ∧
    rxOp .fg overflowed = [.consume] ∧ rxOp (.event ⟨0xA0, none⟩) busy = [] ∧
    (∃ t, stepTurn (.event ⟨0xA0, none⟩) busy = .next t) ∧ ∃ t, stepTurn .reset busy = .next t := by
  refine ⟨⟨by decide, by decide, by decide, fun j h1 h2 h3 => ?_⟩, ⟨_, rfl⟩, by decide, by decide, ⟨_, rfl⟩, ⟨_, rfl⟩⟩
  change j ≤ 3 at h2
  change 3 < j + 2 at h3
  obtain rfl | rfl : j = 2 ∨ j = 3 := by omega
  all_goals decide

/-- A PRODUCE on a full buffer and on one that is not, a CONSUME of each channel, no use, and reset. -/
theorem witness_StepMovesQueues :
    busy.Inv ∧ (∃ t, stepTurn (.event ⟨0x80, some 1⟩) busy = .next t) ∧ rxOp (.event ⟨0x80, some 1⟩) busy = [.produce 1] ∧
    busy.rx.isFull busy.config.cRX = true ∧ (∃ t, stepTurn .fg busy = .next t) ∧ rxOp .fg busy = [.consume] ∧
    (∃ t, stepTurn (.event ⟨0xA0, none⟩) busy = .next t) ∧ txOp (.event ⟨0xA0, none⟩) busy = [.consume] ∧
    adcOp (.event ⟨0xA0, none⟩) busy = [] ∧
    (∃ t, stepTurn .fg { busy with program := [⟨0x40, none⟩] } = .next t) ∧
    adcOp .fg { busy with program := [⟨0x40, none⟩] } = [.consume] ∧
    (let s := State.boot allConfig [⟨0x28, some 1⟩] []
     s.Inv ∧ (∃ t, stepTurn .fg s = .next t) ∧ txOp .fg s = [.produce 1] ∧ s.tx.isFull s.config.cTX = false) ∧
    ∃ t, stepTurn .reset busy = .next t :=
  ⟨busy_inv, ⟨_, rfl⟩, by decide, by decide, ⟨_, rfl⟩, by decide, ⟨_, rfl⟩, by decide, by decide, ⟨_, rfl⟩, by decide,
    ⟨inv_of (by decide) (by decide) (by decide) (by decide) rfl (by decide), ⟨_, rfl⟩, by decide, by decide⟩, ⟨_, rfl⟩⟩

end Sys2Proof.Tests
end

section
/-!
PROOF. Which words a port may execute (spec/30_encoding.md R72, R74, R79): the fields of an encoded word, the decoder's table as
the inverse of the encoder, and the decoder's verdict "illegal" as a fact about the word and the port.
-/
namespace Sys2Proof

/-! ### The fields of an encoded command word -/

/-- The family `Laws.PortField` at every instruction (R71, R74). -/
theorem portField : (i : Instr) → Laws.PortField.Statement i
  | .rxRead    => Laws.PortField.rxRead
  | .rxEmpty   => Laws.PortField.rxEmpty
  | .txEmpty   => Laws.PortField.txEmpty
  | .txWrite d => Laws.PortField.txWrite d
  | .adcRead   => Laws.PortField.adcRead
  | .adcEmpty  => Laws.PortField.adcEmpty
  | .adcStart  => Laws.PortField.adcStart
  | .adcStatus => Laws.PortField.adcStatus
  | .rxEvt d   => Laws.PortField.rxEvt d
  | .txEvt     => Laws.PortField.txEvt
  | .txTxe     => Laws.PortField.txTxe
  | .adcEvt d  => Laws.PortField.adcEvt d

/-- Bit 7 is the field P (R71). -/
theorem encodeWord_getLsbD_seven (i : Instr) : (encodeWord i).getLsbD 7 = true ↔ i.port = .event := by
  obtain ⟨hP, -, -⟩ := portField i
  exact (Bool.eq_iff_iff.mp hP).trans decide_eq_true_iff

/-- Bits 1:0 are the field Z (R74). -/
@[simp] theorem encodeWord_extract_zero (i : Instr) : (encodeWord i).extractLsb' 0 2 = 0 :=
  BitVec.extractLsb'_append_eq_right

/-- Bits 6:5 are the field CH (R72). -/
@[simp] theorem encodeWord_extract_channel (i : Instr) : (encodeWord i).extractLsb' 5 2 = i.channel.field := by
  rw [encodeWord, BitVec.extractLsb'_append_eq_of_le (by decide), BitVec.extractLsb'_append_eq_of_le (by decide)]
  exact BitVec.extractLsb'_append_eq_right

/-- The code 11 names no channel (R72). -/
theorem Channel.field_ne_reserved (c : Channel) : c.field ≠ 0b11 := by
  cases c <;> decide

/-! ### The decoder -/

/-- Each row of R77's table matches the word that R70 to R74 give its instruction. -/
theorem commandTable_word_eq_encodeWord : ∀ row ∈ commandTable, row.1 = encodeWord row.2 := by
  decide

/-- A word that decodes is the encoded word of its instruction (R78). -/
theorem eq_encodeWord_of_decodeWord {w : Byte} {i : Instr} (h : decodeWord w = some i) : w = encodeWord i := by
  obtain ⟨row, hfind, rfl⟩ := Option.map_eq_some_iff.mp h
  have hmatch : w &&& 0xFF = row.1 := by simpa using List.find?_some hfind
  have hmask : w &&& 0xFF = w := BitVec.and_allOnes
  rw [← commandTable_word_eq_encodeWord row (List.mem_of_find?_eq_some hfind), ← hmatch, hmask]

/-- The data word never makes a command illegal, only malformed (R80). -/
theorem attachData_ne_illegal (a : AdcWidth) (i : Instr) (d : Option Sample) : attachData a i d ≠ .illegal := by
  unfold attachData
  split
  · nofun
  · split <;> nofun
  · nofun
  · nofun

/-- A command is illegal on a port exactly when its word names no instruction of that port (R79, R80). -/
theorem decode_eq_illegal_iff {p : Port} {a : AdcWidth} {k : Command} :
    decode p a k = .illegal ↔ ∀ i, decodeWord k.word = some i → i.port ≠ p := by
  unfold decode
  split
  next hnone => simp [hnone]
  next j hj =>
    split
    next hp => simp [hj, hp, attachData_ne_illegal]
    next hp => simp [hj, hp]

/-- A legal word is illegal on the port that is not its own (R79). -/
theorem decode_eq_illegal_iff_port_ne {p : Port} {a : AdcWidth} {k : Command} {i : Instr} (h : decodeWord k.word = some i) :
    decode p a k = .illegal ↔ i.port ≠ p := by
  simp [decode_eq_illegal_iff, h]

/-- IllegalCommand written out field by field (R162). -/
theorem Machine.State.raiseIllegal_eq (s : Machine.State) (p : Port) :
    s.raiseIllegal p = { s with
      err := true, errcode := if s.err then s.errcode else 1, fpc := if p = .fg then s.fpc + 1 else s.fpc } := by
  cases p <;> rfl

/-- What a port does with a command that is illegal there (R162). -/
theorem Machine.present_illegal {p : Port} {k : Command} {s : Machine.State} (h : decode p s.config.wADC k = .illegal) :
    Machine.present p k s = .next (s.raiseIllegal p) := by
  simp [Machine.present, h]

/-! ### The statements -/

/-- Settles O4: a legal word is the encoded word of an instruction, whose field Z is 00 and whose field CH is its channel. -/
theorem reservedFieldsAreIllegal : Obligations.ReservedFieldsAreIllegal := by
  unfold Obligations.ReservedFieldsAreIllegal
  refine fun w => ⟨fun hres => ?_, fun i hi => ?_⟩
  · have hnone : decodeWord w = none := by
      refine Option.eq_none_iff_forall_ne_some.mpr fun i hi => ?_
      obtain rfl := eq_encodeWord_of_decodeWord hi
      rcases hres with hZ | hCH
      · exact hZ (encodeWord_extract_zero i)
      · exact i.channel.field_ne_reserved ((encodeWord_extract_channel i).symm.trans hCH)
    exact ⟨hnone, fun p a d => decode_eq_illegal_iff.mpr (by simp [hnone])⟩
  · rw [eq_encodeWord_of_decodeWord hi, encodeWord_extract_channel]
    cases i.channel <;> rfl

/-- Settles O6: bit 7 of a legal word is its instruction's port, and the decoder runs it on no other. -/
theorem wordOnWrongPortIsIllegal : Obligations.WordOnWrongPortIsIllegal := by
  unfold Obligations.WordOnWrongPortIsIllegal
  intro p k i s hi
  have hbit : k.word.getLsbD 7 = true ↔ i.port = .event := by
    rw [eq_encodeWord_of_decodeWord hi, encodeWord_getLsbD_seven]
  refine ⟨hbit, fun hlegal => ?_, fun hwrong => ?_⟩
  · have hport : i.port = p := of_not_not fun hne => hlegal ((decode_eq_illegal_iff_port_ne hi).mpr hne)
    rwa [hport] at hbit
  · have hne : i.port ≠ p := fun hport => hwrong (hport ▸ hbit)
    rw [Machine.present_illegal ((decode_eq_illegal_iff_port_ne hi).mpr hne), Machine.State.raiseIllegal_eq]

end Sys2Proof
end

section
/-!
PROOF. The index arithmetic of a ring buffer and its laws over a history (spec/40_ring_buffer.md R94 to R101): the successor and the
pending count as numbers, `RingBuffer.Follows` kept by PRODUCE, CONSUME and every history, and the queue while nothing overflows.
-/
namespace Sys2Proof

variable (c : Capacity)

/-! ### Capacities -/

/-- A capacity divides the number of values of the 8-bit register the model keeps an index in (R7; log entry 12). -/
theorem Capacity.size_dvd : c.size ∣ 2 ^ 8 := by
  cases c <;> decide

theorem Capacity.two_le_size : 2 ≤ c.size := by
  cases c <;> decide

theorem Capacity.size_pos : 0 < c.size := Nat.two_pow_pos c.iw

/-- Masking with `M = C - 1` is the remainder modulo C (R9). -/
theorem Capacity.and_size_sub_one (k : Nat) : k &&& (c.size - 1) = k % c.size := Nat.and_two_pow_sub_one_eq_mod k c.iw

end Sys2Proof

namespace Sys2Proof.Machine

variable {n : Nat} {c : Capacity} {r r' : RingBuffer n} {v : BitVec n} {p outs : List (BitVec n)} {q : Nat}

/-! ### Indices and the pending count -/

@[simp] theorem indexMask_toNat (c : Capacity) : (indexMask c).toNat = c.size - 1 := by
  cases c <;> rfl

/-- The successor is the increment modulo C, for every value of the index register (R94). -/
theorem indexSucc_toNat (c : Capacity) (i : BitVec 8) : (indexSucc c i).toNat = (i.toNat + 1) % c.size := by
  calc (indexSucc c i).toNat = (i.toNat + 1) % 2 ^ 8 % c.size := by
        simp [indexSucc, Capacity.and_size_sub_one]
    _ = (i.toNat + 1) % c.size := Nat.mod_mod_of_dvd _ c.size_dvd

/-- The increment modulo C of a number below C, by cases: the wrap, or one more. -/
theorem add_one_mod_size {i : Nat} (hi : i < c.size) : (i + 1) % c.size = if i + 1 = c.size then 0 else i + 1 := by
  split_ifs with hwrap
  · rw [hwrap, Nat.mod_self]
  · exact Nat.mod_eq_of_lt (by omega)

theorem indexSucc_lt (c : Capacity) (i : BitVec 8) : (indexSucc c i).toNat < c.size := by
  rw [indexSucc_toNat]
  exact Nat.mod_lt _ c.size_pos

theorem RingBuffer.pend_eq_mod (c : Capacity) (r : RingBuffer n) :
    r.pend c = (r.head.toNat + c.size - r.tail.toNat) % c.size := by
  rw [RingBuffer.pend, indexMask_toNat, Capacity.and_size_sub_one]

/-- The pending count of a ring buffer with both indices in range, by cases: the head has not wrapped past the tail, or it has. -/
theorem RingBuffer.pend_eq_ite (hh : r.head.toNat < c.size) (ht : r.tail.toNat < c.size) :
    r.pend c = if r.tail.toNat ≤ r.head.toNat then r.head.toNat - r.tail.toNat
      else r.head.toNat + c.size - r.tail.toNat := by
  rw [RingBuffer.pend_eq_mod]
  split_ifs with hle
  · rw [show r.head.toNat + c.size - r.tail.toNat = r.head.toNat - r.tail.toNat + c.size by omega, Nat.add_mod_right,
      Nat.mod_eq_of_lt (by omega)]
  · exact Nat.mod_eq_of_lt (by omega)

theorem RingBuffer.head_eq_tail_iff : r.head = r.tail ↔ r.head.toNat = r.tail.toNat := BitVec.toNat_inj.symm

theorem RingBuffer.pend_lt (c : Capacity) (r : RingBuffer n) : r.pend c < c.size := by
  rw [RingBuffer.pend_eq_mod]
  exact Nat.mod_lt _ c.size_pos

/-- Empty is the pending count 0 (R97). -/
theorem RingBuffer.isEmpty_iff_pend (hh : r.head.toNat < c.size) (ht : r.tail.toNat < c.size) :
    r.isEmpty = true ↔ r.pend c = 0 := by
  rw [RingBuffer.isEmpty_iff, RingBuffer.head_eq_tail_iff, RingBuffer.pend_eq_ite hh ht]
  split_ifs <;> omega

/-- Full is the pending count C - 1 (R97). -/
theorem RingBuffer.isFull_iff_pend (hh : r.head.toNat < c.size) (ht : r.tail.toNat < c.size) :
    r.isFull c = true ↔ r.pend c = c.size - 1 := by
  rw [RingBuffer.isFull_iff, ← BitVec.toNat_inj, indexSucc_toNat, add_one_mod_size hh, RingBuffer.pend_eq_ite hh ht]
  split_ifs <;> omega

/-- PRODUCE adds one to the pending count, modulo C (R97). -/
theorem RingBuffer.pend_produce (hh : r.head.toNat < c.size) (ht : r.tail.toNat < c.size) (v : BitVec n) :
    (r.produce c v).pend c = (r.pend c + 1) % c.size := by
  rw [add_one_mod_size (r.pend_lt c), RingBuffer.pend_eq_ite (r := r.produce c v) (indexSucc_lt c _) ht,
    RingBuffer.pend_eq_ite hh ht, RingBuffer.produce_head, RingBuffer.produce_tail, indexSucc_toNat, add_one_mod_size hh]
  split_ifs <;> omega

/-- CONSUME takes one away from the pending count of a ring buffer that is not empty (R97). -/
theorem RingBuffer.pend_advance (hh : r.head.toNat < c.size) (ht : r.tail.toNat < c.size) (hne : r.head ≠ r.tail) :
    1 ≤ r.pend c ∧ (r.advance c).pend c = r.pend c - 1 := by
  rw [Ne, RingBuffer.head_eq_tail_iff] at hne
  rw [RingBuffer.pend_eq_ite (r := r.advance c) hh (indexSucc_lt c _), RingBuffer.pend_eq_ite hh ht,
    RingBuffer.advance_head, RingBuffer.advance_tail, indexSucc_toNat, add_one_mod_size ht]
  split_ifs <;> omega

/-! ### Histories -/

@[simp] theorem RingBuffer.runOps_nil : r.runOps c [] = some (r, []) := rfl

@[simp] theorem RingBuffer.runOps_produce (l : List (RingOp n)) :
    r.runOps c (.produce v :: l) = (r.produce c v).runOps c l := rfl

/-- A history that begins with a CONSUME completes exactly if that CONSUME takes an element and the rest completes after it. -/
theorem RingBuffer.runOps_consume_eq_some_iff {l : List (RingOp n)} :
    r.runOps c (.consume :: l) = some (r', outs) ↔
      ∃ v r₁ outs₁, r.consume c = .took v r₁ ∧ r₁.runOps c l = some (r', outs₁) ∧ outs = v :: outs₁ := by
  rw [RingBuffer.runOps]
  cases r.consume c with
  | held => simp
  | unwritten => simp
  | took v r₁ => simp [eq_comm]

/-! ### The counting and slot content laws -/

/-- After reset the laws hold of the empty history (R38). -/
theorem RingBuffer.Follows.reset (n : Nat) (c : Capacity) : (RingBuffer.reset n).Follows c [] 0 where
  head_eq := (Nat.zero_mod _).symm
  tail_eq := (Nat.zero_mod _).symm
  consumed_le := Nat.le_refl 0
  slots _ h1 h2 _ := absurd (h1.trans h2) (by simp)

/-- The pending count is (P - Q) mod C (R97). -/
theorem RingBuffer.Follows.pend_eq (h : r.Follows c p q) : r.pend c = (p.length - q) % c.size := by
  obtain ⟨hhead, htail, hle, -⟩ := h
  have htail_lt : q % c.size < c.size := Nat.mod_lt _ c.size_pos
  rw [RingBuffer.pend_eq_mod, hhead, htail]
  refine Nat.ModEq.add_right_cancel' (q % c.size) ?_
  calc p.length % c.size + c.size - q % c.size + q % c.size
      ≡ p.length % c.size + c.size [MOD c.size] := by rw [Nat.sub_add_cancel (by omega)]
    _ ≡ p.length [MOD c.size] := by simp [Nat.ModEq]
    _ ≡ p.length - q + q [MOD c.size] := by rw [Nat.sub_add_cancel hle]
    _ ≡ p.length - q + q % c.size [MOD c.size] := by simp [Nat.ModEq]

/-- A ring buffer whose indices differ has an unread element (R96). -/
theorem RingBuffer.Follows.consumed_lt (h : r.Follows c p q) (hne : r.head ≠ r.tail) : q < p.length := by
  refine lt_of_le_of_ne h.consumed_le fun heq => hne ?_
  rw [RingBuffer.head_eq_tail_iff, h.head_eq, h.tail_eq, heq]

/-- PRODUCE number P + 1 overwrites slot (P + 1) mod C, which is none of the slots of the C - 1 PRODUCEs before it (R101). -/
theorem RingBuffer.Follows.produce (h : r.Follows c p q) (v : BitVec n) : (r.produce c v).Follows c (p ++ [v]) q where
  head_eq := by simp [indexSucc_toNat, h.head_eq]
  tail_eq := h.tail_eq
  consumed_le := by simpa using Nat.le_succ_of_le h.consumed_le
  slots j h1 h2 h3 := by
    simp only [List.length_append, List.length_singleton] at h2 h3
    rw [RingBuffer.produce_storage, indexSucc_toNat, h.head_eq, Nat.mod_add_mod]
    rcases Nat.lt_or_eq_of_le h2 with hlt | rfl
    · have hslot : j % c.size ≠ (p.length + 1) % c.size := fun heq => by
        have hdvd := Nat.sub_mod_eq_zero_of_mod_eq heq.symm
        rw [Nat.mod_eq_of_lt (by omega)] at hdvd
        omega
      rw [Memory.read_write_other _ _ hslot, h.slots j h1 (by omega) (by omega), List.getElem?_append_left (by omega)]
    · simp

/-- Advancing the tail of a ring buffer that is not empty keeps the laws, with one more element consumed (R95, R96). -/
theorem RingBuffer.Follows.advance (h : r.Follows c p q) (hne : r.head ≠ r.tail) : (r.advance c).Follows c p (q + 1) where
  head_eq := h.head_eq
  tail_eq := by simp [indexSucc_toNat, h.tail_eq]
  consumed_le := h.consumed_lt hne
  slots := h.slots

/-- A CONSUME reads the slot after the tail, which the newest PRODUCE that a multiple of C of elements separates from the oldest
unread one wrote (R101). -/
theorem RingBuffer.Follows.front_eq (h : r.Follows c p q) (hne : r.head ≠ r.tail) :
    1 ≤ (p.length - q) % c.size ∧ r.front c = p[q + c.size * ((p.length - q) / c.size)]? := by
  have hlt := h.consumed_lt hne
  have hsplit := Nat.div_add_mod (p.length - q) c.size
  have hrem_lt := Nat.mod_lt (p.length - q) c.size_pos
  have hrem : 1 ≤ (p.length - q) % c.size := by
    refine Nat.one_le_iff_ne_zero.mpr fun h0 => hne ?_
    have hmod : p.length % c.size = q % c.size := ((Nat.modEq_iff_dvd' hlt.le).mpr (Nat.dvd_of_mod_eq_zero h0)).symm
    rw [RingBuffer.head_eq_tail_iff, h.head_eq, h.tail_eq, hmod]
  refine ⟨hrem, ?_⟩
  have hslot : (indexSucc c r.tail).toNat = (q + c.size * ((p.length - q) / c.size) + 1) % c.size := by
    rw [indexSucc_toNat, h.tail_eq, Nat.mod_add_mod, Nat.add_right_comm, Nat.add_mul_mod_self_left]
  rw [RingBuffer.front, hslot, h.slots _ (by omega) (by omega) (by omega), Nat.add_sub_cancel]

/-- A CONSUME that completes keeps the laws, and takes the element that skips exactly C * k (R101). -/
theorem RingBuffer.Follows.consume (h : r.Follows c p q) (hc : r.consume c = .took v r') :
    r'.Follows c p (q + 1) ∧ 1 ≤ (p.length - q) % c.size ∧
      p[q + c.size * ((p.length - q) / c.size)]? = some v := by
  obtain ⟨hne, hfront, rfl⟩ := RingBuffer.consume_took.mp hc
  obtain ⟨hrem, heq⟩ := h.front_eq hne
  exact ⟨h.advance hne, hrem, heq ▸ hfront⟩

/-- Every history that completes keeps the laws, with what it produces appended and what it consumes counted. -/
theorem RingBuffer.Follows.runOps {ops : List (RingOp n)} (h : r.Follows c p q) (hrun : r.runOps c ops = some (r', outs)) :
    r'.Follows c (p ++ producedBy ops) (q + consumedBy ops) := by
  induction ops generalizing r p q outs with
  | nil =>
    cases hrun
    simpa [producedBy, consumedBy] using h
  | cons op ops ih =>
    cases op with
    | produce v => simpa [producedBy, consumedBy] using ih (h.produce v) hrun
    | consume =>
      obtain ⟨v, r₁, outs₁, hc, hrest, -⟩ := RingBuffer.runOps_consume_eq_some_iff.mp hrun
      simpa [producedBy, consumedBy, Nat.add_assoc, Nat.add_comm 1] using ih (h.consume hc).1 hrest

/-- The laws hold after every history from reset (R95, R96, R101). -/
theorem RingBuffer.follows_of_runOps_reset {ops : List (RingOp n)} (hrun : (RingBuffer.reset n).runOps c ops = some (r, outs)) :
    r.Follows c (producedBy ops) (consumedBy ops) := by
  simpa using (RingBuffer.Follows.reset n c).runOps hrun

/-! ### The queue while nothing overflows -/

/-- The elements of a list, read off at each of its positions. -/
theorem filterMap_range_getElem? {α : Type} (l : List α) : (List.range l.length).filterMap (fun k => l[k]?) = l := by
  induction l with
  | nil => rfl
  | cons a l ih => simpa [List.range_succ_eq_map, List.filterMap_map, Function.comp_def] using ih

/-- While fewer than C elements are unread, they are the queue the ring buffer stands for (R98). -/
theorem RingBuffer.Follows.contents_eq (h : r.Follows c p q) (hroom : p.length - q < c.size) : r.contents c = p.drop q := by
  have hpend : r.pend c = (p.drop q).length := by rw [h.pend_eq, Nat.mod_eq_of_lt hroom, List.length_drop]
  have hslot : ∀ k, r.pendingSlot c k = (q + 1 + k) % c.size := fun k => by
    rw [RingBuffer.pendingSlot, h.tail_eq, Nat.add_assoc, Nat.mod_add_mod, Nat.add_assoc]
  have hread : ∀ k ∈ List.range (p.drop q).length,
      Memory.read r.storage (r.pendingSlot c k) = (p.drop q)[k]? := fun k hk => by
    rw [List.mem_range, List.length_drop] at hk
    rw [hslot, h.slots _ (by omega) (by omega) (by omega), List.getElem?_drop, Nat.add_right_comm, Nat.add_sub_cancel]
  rw [RingBuffer.contents, hpend, List.filterMap_congr hread, filterMap_range_getElem?]

/-- A history without overflow leaves fewer than C elements unread, and its CONSUMEs take the unread elements in order (R98). -/
theorem RingBuffer.Follows.runOps_of_neverOverflows {ops : List (RingOp n)} (h : r.Follows c p q)
    (hroom : p.length - q < c.size) (hno : neverOverflows c (p.length - q) ops) (hrun : r.runOps c ops = some (r', outs)) :
    (p ++ producedBy ops).length - (q + consumedBy ops) < c.size ∧
      outs = ((p ++ producedBy ops).drop q).take (consumedBy ops) := by
  induction ops generalizing r p q outs with
  | nil =>
    cases hrun
    simpa [producedBy, consumedBy] using hroom
  | cons op ops ih =>
    cases op with
    | produce v =>
      have hlen : (p ++ [v]).length - q = p.length - q + 1 := by
        have := h.consumed_le
        simp only [List.length_append, List.length_singleton]
        omega
      obtain ⟨hroom', hno'⟩ := hno
      simpa [producedBy, consumedBy] using ih (h.produce v) (hlen ▸ hroom') (hlen ▸ hno') hrun
    | consume =>
      obtain ⟨v, r₁, outs₁, hc, hrest, rfl⟩ := RingBuffer.runOps_consume_eq_some_iff.mp hrun
      obtain ⟨hfollows, -, htaken⟩ := h.consume hc
      rw [Nat.div_eq_of_lt hroom, Nat.mul_zero, Nat.add_zero] at htaken
      obtain ⟨hq, rfl⟩ := List.getElem?_eq_some_iff.mp htaken
      obtain ⟨hroom', rfl⟩ := ih hfollows (by omega) (by simpa [neverOverflows, Nat.sub_sub] using hno) hrest
      have hhead : (p ++ producedBy ops).drop q = p[q] :: (p ++ producedBy ops).drop (q + 1) := by
        rw [List.drop_eq_getElem_cons (by rw [List.length_append]; omega), List.getElem_append_left hq]
      constructor
      · simpa [producedBy, consumedBy, Nat.add_assoc, Nat.add_comm 1] using hroom'
      · simp [producedBy, consumedBy, hhead]

end Sys2Proof.Machine

namespace Sys2Proof

open Machine

/-! ### The statements about one ring buffer -/

/-- Settles O10: the clauses are the pending count of PRODUCE, of CONSUME and of the two predicates, and (P - Q) mod C is the counting
law's. -/
theorem pendingCountCountsElements : Obligations.PendingCountCountsElements := by
  unfold Obligations.PendingCountCountsElements
  intro n c r hh ht
  refine ⟨Nat.le_sub_one_of_lt (r.pend_lt c), r.pend_produce hh ht, fun v r' hc => ?_, r.isEmpty_iff_pend hh ht,
    r.isFull_iff_pend hh ht, fun ops outs hrun => (RingBuffer.follows_of_runOps_reset hrun).pend_eq⟩
  obtain ⟨hne, -, rfl⟩ := RingBuffer.consume_took.mp hc
  exact RingBuffer.pend_advance hh ht hne

/-- Settles O12: after a history from reset the slots are those of `RingBuffer.Follows`, and so is what the next CONSUME takes. -/
theorem slotContentLaw : Obligations.SlotContentLaw := by
  unfold Obligations.SlotContentLaw
  intro n c ops r outs hrun
  have hfollows := RingBuffer.follows_of_runOps_reset hrun
  exact ⟨hfollows.slots, fun v r' hc => (hfollows.consume hc).2⟩

/-- Settles O13: without overflow fewer than C elements are unread, so the remainder in the counting law is the difference itself. -/
theorem fifoWithoutOverflow : Obligations.FifoWithoutOverflow := by
  unfold Obligations.FifoWithoutOverflow
  intro n c ops r outs hrun hno
  have hfollows := RingBuffer.follows_of_runOps_reset hrun
  obtain ⟨hroom, houts⟩ := (RingBuffer.Follows.reset n c).runOps_of_neverOverflows c.size_pos hno hrun
  simp only [List.nil_append, Nat.zero_add, List.drop_zero] at hroom houts
  exact ⟨hfollows.pend_eq.trans (Nat.mod_eq_of_lt hroom), Nat.le_sub_one_of_lt (r.pend_lt c), houts,
    hfollows.contents_eq hroom⟩

end Sys2Proof
end

section
/-!
PROOF. How the machine uses its three ring buffers (spec/10_state.md R23; spec/40_ring_buffer.md R94 to R96): each instruction, each
turn and each run without reset takes every channel's ring buffer through its own history, and each use moves one index by its
successor.
-/
namespace Sys2Proof.Machine

variable {n : Nat} {c : Capacity} {r r' r'' : RingBuffer n} {v : BitVec n} {out out' out'' l l' : List (BitVec n)}
variable {ops ops' : List (RingOp n)} {i : Instr} {s t x : State} {u : Turn}

/-! ### One ring buffer and its consumer's output -/

/-- The history `ops` takes the ring buffer `r` to `r'`, and its consumer's output `out` to `out'` by exactly what it consumes. -/
def RingBuffer.Uses (c : Capacity) (r : RingBuffer n) (ops : List (RingOp n)) (r' : RingBuffer n) (out out' : List (BitVec n)) :
    Prop :=
  ∃ l, r.runOps c ops = some (r', l) ∧ out' = out ++ l

/-- Two histories, the second run after the first. -/
theorem RingBuffer.runOps_append (h : r.runOps c ops = some (r', l)) (h' : r'.runOps c ops' = some (r'', l')) :
    r.runOps c (ops ++ ops') = some (r'', l ++ l') := by
  induction ops generalizing r l with
  | nil => cases h; exact h'
  | cons op ops ih =>
    cases op with
    | produce v => exact ih h
    | consume =>
      obtain ⟨v, r₁, l₁, hc, hrest, rfl⟩ := RingBuffer.runOps_consume_eq_some_iff.mp h
      exact RingBuffer.runOps_consume_eq_some_iff.mpr ⟨v, r₁, l₁ ++ l', hc, ih hrest, rfl⟩

theorem RingBuffer.Uses.append (h : r.Uses c ops r' out out') (h' : r'.Uses c ops' r'' out' out'') :
    r.Uses c (ops ++ ops') r'' out out'' := by
  obtain ⟨l, hrun, rfl⟩ := h
  obtain ⟨l', hrun', rfl⟩ := h'
  exact ⟨l ++ l', RingBuffer.runOps_append hrun hrun', List.append_assoc ..⟩

theorem RingBuffer.Uses.unused (h : out' = out) : r.Uses c [] r out out' := ⟨[], rfl, by simpa using h⟩

theorem RingBuffer.Uses.produced (h : out' = out) : r.Uses c [.produce v] (r.produce c v) out out' := ⟨[], rfl, by simpa using h⟩

/-- A consumer that holds on an empty buffer (R14, R91). -/
theorem RingBuffer.Uses.held (h : r.head = r.tail) : r.Uses c (if r.isEmpty then [] else [.consume]) r out out := by
  rw [if_pos (RingBuffer.isEmpty_iff.mpr h)]
  exact .unused rfl

/-- A consumer that takes an element (R91). -/
theorem RingBuffer.Uses.taken (hne : r.head ≠ r.tail) (hfront : r.front c = some v) (h : out' = out ++ [v]) :
    r.Uses c (if r.isEmpty then [] else [.consume]) (r.advance c) out out' := by
  rw [if_neg (hne ∘ RingBuffer.isEmpty_iff.mp)]
  have hc : r.consume c = .took v (r.advance c) := RingBuffer.consume_took.mpr ⟨hne, hfront, rfl⟩
  exact ⟨[v], RingBuffer.runOps_consume_eq_some_iff.mpr ⟨v, _, [], hc, rfl, rfl⟩, h⟩

/-- At most one use leaves each index, or takes it to its successor (R94). -/
theorem RingBuffer.Uses.indices (h : r.Uses c ops r' out out') (hone : ops.length ≤ 1) :
    (r'.head = r.head ∨ r'.head = indexSucc c r.head) ∧ (r'.tail = r.tail ∨ r'.tail = indexSucc c r.tail) := by
  obtain ⟨l, hrun, -⟩ := h
  match ops with
  | [] => cases hrun; exact ⟨.inl rfl, .inl rfl⟩
  | [.produce v] => cases hrun; exact ⟨.inr rfl, .inl rfl⟩
  | [.consume] =>
    obtain ⟨v, r₁, l₁, hc, hrest, -⟩ := RingBuffer.runOps_consume_eq_some_iff.mp hrun
    obtain ⟨-, -, rfl⟩ := RingBuffer.consume_took.mp hc
    cases hrest
    exact ⟨.inl rfl, .inr rfl⟩
  | _ :: _ :: _ => simp at hone

/-- After a history from reset the indices count its PRODUCEs and CONSUMEs, and the consumer is never ahead (R95, R96). -/
theorem RingBuffer.Uses.counts_of_reset (h : (RingBuffer.reset n).Uses c ops r out out') :
    r.head.toNat = (producedBy ops).length % c.size ∧ r.tail.toNat = consumedBy ops % c.size ∧
      consumedBy ops ≤ (producedBy ops).length ∧ (r.isEmpty = false → consumedBy ops < (producedBy ops).length) := by
  obtain ⟨l, hrun, -⟩ := h
  have hfollows := RingBuffer.follows_of_runOps_reset hrun
  exact ⟨hfollows.head_eq, hfollows.tail_eq, hfollows.consumed_le,
    fun hne => hfollows.consumed_lt (by simpa [RingBuffer.isEmpty] using hne)⟩

/-! ### What the foreground's results say about a channel -/

@[simp] theorem bytesOf_append (a b : List ResultWord) : bytesOf (a ++ b) = bytesOf a ++ bytesOf b := by
  induction a with
  | nil => rfl
  | cons w a ih => cases w <;> simp [bytesOf, ih]

@[simp] theorem samplesOf_append (a b : List ResultWord) : samplesOf (a ++ b) = samplesOf a ++ samplesOf b := by
  induction a with
  | nil => rfl
  | cons w a ih => cases w <;> simp [samplesOf, ih]

@[simp] theorem bytesOf_bit (b : BitVec 1) : bytesOf [.bit b] = [] := rfl
@[simp] theorem bytesOf_byte (b : Byte) : bytesOf [.byte b] = [b] := rfl
@[simp] theorem bytesOf_sample (d : Sample) : bytesOf [.sample d] = [] := rfl
@[simp] theorem samplesOf_bit (b : BitVec 1) : samplesOf [.bit b] = [] := rfl
@[simp] theorem samplesOf_byte (b : Byte) : samplesOf [.byte b] = [] := rfl
@[simp] theorem samplesOf_sample (d : Sample) : samplesOf [.sample d] = [d] := rfl

/-! ### The machine's three ring buffers -/

/-- From `s` to `t` the configuration stays, and each channel's ring buffer goes through its own history, with what was consumed
returned by RX.READ, sent by TX.EVT and returned by ADC.READ (R23). -/
structure State.UsesRings (rxOps txOps : List (RingOp 8)) (adcOps : List (RingOp 16)) (s t : State) : Prop where
  config : t.config = s.config
  rx : s.rx.Uses s.config.cRX rxOps t.rx (bytesOf s.fgOut) (bytesOf t.fgOut)
  tx : s.tx.Uses s.config.cTX txOps t.tx s.txOut t.txOut
  adc : s.adc.Uses s.config.cADC adcOps t.adc (samplesOf s.fgOut) (samplesOf t.fgOut)

/-- A step that touches no ring buffer and returns neither a byte nor a sample. -/
theorem State.UsesRings.unused (hconfig : t.config = s.config) (hrx : t.rx = s.rx) (htx : t.tx = s.tx) (hadc : t.adc = s.adc)
    (htxOut : t.txOut = s.txOut) (hbytes : bytesOf t.fgOut = bytesOf s.fgOut) (hsamples : samplesOf t.fgOut = samplesOf s.fgOut) :
    State.UsesRings [] [] [] s t where
  config := hconfig
  rx := hrx ▸ .unused hbytes
  tx := htx ▸ .unused htxOut
  adc := hadc ▸ .unused hsamples

theorem State.UsesRings.append {rxOps txOps rxOps' txOps' : List (RingOp 8)} {adcOps adcOps' : List (RingOp 16)}
    (h : State.UsesRings rxOps txOps adcOps s t) (h' : State.UsesRings rxOps' txOps' adcOps' t x) :
    State.UsesRings (rxOps ++ rxOps') (txOps ++ txOps') (adcOps ++ adcOps') s x := by
  obtain ⟨hconfig, hrx, htx, hadc⟩ := h
  obtain ⟨hconfig', hrx', htx', hadc'⟩ := h'
  rw [hconfig] at hconfig' hrx' htx' hadc'
  exact ⟨hconfig', hrx.append hrx', htx.append htx', hadc.append hadc'⟩

/-- Each instruction uses the ring buffers as `rxOpOf`, `txOpOf` and `adcOpOf` say. -/
theorem exec_usesRings (h : exec i s = .next t) : State.UsesRings (rxOpOf i s) (txOpOf i s) (adcOpOf i s) s t := by
  cases i with
  | rxRead =>
    obtain ⟨hempty, rfl⟩ | ⟨b, hne, hfront, rfl⟩ := execRxRead_next h
    · exact ⟨rfl, .held hempty, .unused rfl, .unused rfl⟩
    · exact ⟨rfl, .taken hne hfront (by simp), .unused rfl, .unused (by simp)⟩
  | adcRead =>
    obtain ⟨hempty, rfl⟩ | ⟨d, hne, hfront, rfl⟩ := execAdcRead_next h
    · exact ⟨rfl, .unused rfl, .unused rfl, .held hempty⟩
    · exact ⟨rfl, .unused (by simp), .unused rfl, .taken hne hfront (by simp)⟩
  | txWrite d =>
    obtain ⟨hfull, rfl⟩ | ⟨hroom, rfl⟩ := execTxWrite_next h
    · have hop : txOpOf (.txWrite d) t = [] := if_pos (RingBuffer.isFull_iff.mpr hfull)
      exact ⟨rfl, .unused rfl, hop ▸ .unused rfl, .unused rfl⟩
    · have hop : txOpOf (.txWrite d) s = [.produce d] := if_neg (hroom ∘ RingBuffer.isFull_iff.mp)
      exact ⟨rfl, .unused rfl, hop ▸ .produced rfl, .unused rfl⟩
  | txEvt =>
    obtain ⟨-, -, ⟨hempty, rfl⟩ | ⟨b, hne, hfront, rfl⟩⟩ := execTxEvt_next h
    · exact ⟨rfl, .unused rfl, .held hempty, .unused rfl⟩
    · exact ⟨rfl, .unused rfl, .taken hne hfront rfl, .unused rfl⟩
  | rxEvt d => cases h; exact ⟨rfl, .produced rfl, .unused rfl, .unused rfl⟩
  | adcEvt d =>
    obtain ⟨-, rfl⟩ := execAdcEvt_next h
    exact ⟨rfl, .unused rfl, .unused rfl, .produced rfl⟩
  | txTxe =>
    obtain ⟨-, rfl⟩ := execTxTxe_next h
    exact .unused rfl rfl rfl rfl rfl rfl rfl
  | adcStart => cases h; exact .unused rfl rfl rfl rfl rfl rfl rfl
  | adcStatus => cases h; exact .unused rfl rfl rfl rfl rfl (by simp [statusResult]) (by simp [statusResult])
  | rxEmpty => cases h; exact .unused rfl rfl rfl rfl rfl (by simp [boolResult]) (by simp [boolResult])
  | txEmpty => cases h; exact .unused rfl rfl rfl rfl rfl (by simp [boolResult]) (by simp [boolResult])
  | adcEmpty => cases h; exact .unused rfl rfl rfl rfl rfl (by simp [boolResult]) (by simp [boolResult])

/-! ### An instruction uses a ring buffer at most once -/

theorem rxOpOf_length_le_one (i : Instr) (s : State) : (rxOpOf i s).length ≤ 1 := by
  cases i with
  | rxRead => simp only [rxOpOf]; split <;> simp
  | _ => simp [rxOpOf]

theorem txOpOf_length_le_one (i : Instr) (s : State) : (txOpOf i s).length ≤ 1 := by
  cases i with
  | txWrite d => simp only [txOpOf]; split <;> simp
  | txEvt => simp only [txOpOf]; split <;> simp
  | _ => simp [txOpOf]

theorem adcOpOf_length_le_one (i : Instr) (s : State) : (adcOpOf i s).length ≤ 1 := by
  cases i with
  | adcRead => simp only [adcOpOf]; split <;> simp
  | _ => simp [adcOpOf]

/-! ### Turns and runs -/

/-- A turn other than reset that gives a next state executes its instruction, or executes none: IllegalCommand, or a foreground with
no command left. -/
theorem stepTurn_turnInstr (hu : u ≠ .reset) (h : stepTurn u s = .next t) :
    (∃ i, turnInstr u s = some i ∧ exec i s = .next t) ∨
      (turnInstr u s = none ∧ ((∃ p, t = s.raiseIllegal p) ∨ t = s)) := by
  obtain ⟨p, k, i, hturn, hd, hexec⟩ | ⟨p, k, hturn, hd, rfl⟩ | ⟨rfl, hk, rfl⟩ | ⟨rfl, -⟩ := stepTurn_next h
  · obtain ⟨rfl, rfl⟩ | ⟨rfl, rfl, hk⟩ := hturn
    · exact .inl ⟨i, by simp [turnInstr, hd], hexec⟩
    · exact .inl ⟨i, by simp [turnInstr, hk, hd], hexec⟩
  · obtain ⟨rfl, rfl⟩ | ⟨rfl, rfl, hk⟩ := hturn
    · exact .inr ⟨by simp [turnInstr, hd], .inl ⟨_, rfl⟩⟩
    · exact .inr ⟨by simp [turnInstr, hk, hd], .inl ⟨_, rfl⟩⟩
  · exact .inr ⟨by simp [turnInstr, hk], .inr rfl⟩
  · exact absurd rfl hu

/-- Each turn other than reset uses the ring buffers as `rxOp`, `txOp` and `adcOp` say. -/
theorem stepTurn_usesRings (hu : u ≠ .reset) (h : stepTurn u s = .next t) :
    State.UsesRings (rxOp u s) (txOp u s) (adcOp u s) s t := by
  obtain ⟨i, hi, hexec⟩ | ⟨hnone, ht⟩ := stepTurn_turnInstr hu h
  · simpa [rxOp, txOp, adcOp, hi] using exec_usesRings hexec
  · simp only [rxOp, txOp, adcOp, hnone]
    obtain ⟨p, rfl⟩ | rfl := ht
    · exact .unused rfl rfl rfl rfl rfl rfl rfl
    · exact .unused rfl rfl rfl rfl rfl rfl rfl

theorem runTurns_cons_eq_next_iff {turns : List Turn} :
    runTurns s (u :: turns) = .next t ↔ ∃ x, stepTurn u s = .next x ∧ runTurns x turns = .next t := by
  rw [runTurns]
  cases stepTurn u s <;> simp

theorem historyOf_cons_of_next {op : Turn → State → List (RingOp n)} {turns : List Turn} (h : stepTurn u s = .next x) :
    historyOf op s (u :: turns) = op u s ++ historyOf op x turns := by
  rw [historyOf, h]

/-- A run without reset uses the ring buffers as their histories along it say. -/
theorem runTurns_usesRings {turns : List Turn} (hreset : Turn.reset ∉ turns) (h : runTurns s turns = .next t) :
    State.UsesRings (historyOf rxOp s turns) (historyOf txOp s turns) (historyOf adcOp s turns) s t := by
  induction turns generalizing s with
  | nil => cases h; exact .unused rfl rfl rfl rfl rfl rfl rfl
  | cons u turns ih =>
    rw [List.mem_cons, not_or] at hreset
    obtain ⟨hu, hturns⟩ := hreset
    obtain ⟨x, hstep, hrun⟩ := runTurns_cons_eq_next_iff.mp h
    simp only [historyOf_cons_of_next hstep]
    exact (stepTurn_usesRings (Ne.symm hu) hstep).append (ih hturns hrun)

end Sys2Proof.Machine

namespace Sys2Proof

open Machine

/-! ### The statements about the machine's indices -/

/-- Settles O9: the successor is the increment modulo C, and an instruction uses each ring buffer at most once. -/
theorem successorIsIncrementModuloCapacity : Obligations.SuccessorIsIncrementModuloCapacity := by
  unfold Obligations.SuccessorIsIncrementModuloCapacity
  refine ⟨fun c i hi => ?_, fun i s t h => ?_⟩
  · have hsize := c.size_pos
    rw [indexSucc_toNat, Capacity.and_size_sub_one, add_one_mod_size hi]
    exact ⟨rfl, rfl, fun hlast => if_pos (by omega), fun hlast => if_neg (by omega)⟩
  · obtain ⟨-, hrx, htx, hadc⟩ := exec_usesRings h
    obtain ⟨hrxHead, hrxTail⟩ := hrx.indices (rxOpOf_length_le_one i s)
    obtain ⟨htxHead, htxTail⟩ := htx.indices (txOpOf_length_le_one i s)
    obtain ⟨hadcHead, hadcTail⟩ := hadc.indices (adcOpOf_length_le_one i s)
    exact ⟨hrxHead, hrxTail, htxHead, htxTail, hadcHead, hadcTail⟩

/-- Settles O11: along the run each ring buffer goes from reset through its own history, whose uses its indices count. -/
theorem indicesCountProducesAndConsumes : Obligations.IndicesCountProducesAndConsumes := by
  unfold Obligations.IndicesCountProducesAndConsumes
  intro cfg prog turns t hreset hrun
  obtain ⟨-, hrx, htx, hadc⟩ := runTurns_usesRings hreset hrun
  exact ⟨hrx.counts_of_reset, htx.counts_of_reset, hadc.counts_of_reset⟩

end Sys2Proof
end

section
/-!
PROOF. The receive state machine (spec/41_receive.md R114): when one PRODUCE or one CONSUME leaves a ring buffer empty, and the two
instructions of the Receive Channel as these.
-/
namespace Sys2Proof.Machine

variable {n : Nat} {c : Capacity} {r : RingBuffer n}

/-- A PRODUCE leaves the ring buffer empty exactly when it overflows (R99). -/
theorem RingBuffer.isEmpty_produce_iff_isFull (v : BitVec n) : (r.produce c v).isEmpty = true ↔ r.isFull c = true := by
  rw [RingBuffer.isEmpty_iff, RingBuffer.isFull_iff, RingBuffer.produce_head, RingBuffer.produce_tail]

/-- An empty ring buffer is not full, since it has at least two slots (R7). -/
theorem RingBuffer.isFull_eq_false_of_isEmpty (hh : r.head.toNat < c.size) (ht : r.tail.toNat < c.size) (hempty : r.isEmpty = true) :
    r.isFull c = false := by
  have hpend : r.pend c = 0 := (RingBuffer.isEmpty_iff_pend hh ht).mp hempty
  have hsize := c.two_le_size
  rw [Bool.eq_false_iff, Ne, RingBuffer.isFull_iff_pend hh ht]
  omega

/-- A CONSUME leaves the ring buffer empty exactly when it takes the only pending element. -/
theorem RingBuffer.isEmpty_advance_iff_pend (hh : r.head.toNat < c.size) (ht : r.tail.toNat < c.size) (hne : r.head ≠ r.tail) :
    (r.advance c).isEmpty = true ↔ r.pend c = 1 := by
  obtain ⟨hpos, hpend⟩ := RingBuffer.pend_advance hh ht hne
  rw [RingBuffer.isEmpty_iff_pend (r := r.advance c) hh (indexSucc_lt c _), hpend]
  omega

end Sys2Proof.Machine

namespace Sys2Proof

open Machine

/-- Settles O50: RX.EVT is a PRODUCE and RX.READ from a buffer that is not empty a CONSUME, and overflow is the pending count C - 1. -/
theorem receiveStateMachine : Obligations.ReceiveStateMachine := by
  unfold Obligations.ReceiveStateMachine
  intro s t hh ht
  refine ⟨fun d h hempty => ?leavesIdle, fun h hdata => ?read, fun d h _ => ?overflow⟩
  case leavesIdle =>
    cases h
    have hroom : s.rx.isFull s.config.cRX = false := RingBuffer.isFull_eq_false_of_isEmpty hh ht hempty
    exact (Bool.eq_iff_iff.mpr (RingBuffer.isEmpty_produce_iff_isFull d)).trans hroom
  case read =>
    have hne : s.rx.head ≠ s.rx.tail := fun heq => Bool.eq_false_iff.mp hdata (RingBuffer.isEmpty_iff.mpr heq)
    obtain ⟨heq, -⟩ | ⟨b, -, -, rfl⟩ := execRxRead_next h
    · exact absurd heq hne
    · exact RingBuffer.isEmpty_advance_iff_pend hh ht hne
  case overflow =>
    cases h
    exact (RingBuffer.isEmpty_produce_iff_isFull d).trans (RingBuffer.isFull_iff_pend hh ht)

end Sys2Proof
end

section
/-!
PROOF. The Transmit Channel (spec/42_transmit.md R126 to R131): which turns touch its interrupt enable and its ring buffer, the gating
of its interrupt, and that it never overflows, so what it has sent is the beginning of what was written.
-/
namespace Sys2Proof.Machine

variable {n : Nat} {c : Capacity} {r r' : RingBuffer n} {ops : List (RingOp n)} {out out' : List (BitVec n)}
variable {d : Byte} {i : Instr} {s t : State} {u : Turn}

/-! ### The interrupt enable -/

/-- Only TX.WRITE and TX.EVT touch TXIE or the transmit buffer. -/
theorem exec_tx_cases (h : exec i s = .next t) :
    (∃ d, i = .txWrite d) ∨ i = .txEvt ∨ (t.txie = s.txie ∧ t.tx = s.tx) := by
  cases i with
  | txWrite d => exact .inl ⟨d, rfl⟩
  | txEvt => exact .inr (.inl rfl)
  | rxRead => obtain ⟨-, rfl⟩ | ⟨b, -, -, rfl⟩ := execRxRead_next h <;> exact .inr (.inr ⟨rfl, rfl⟩)
  | adcRead => obtain ⟨-, rfl⟩ | ⟨b, -, -, rfl⟩ := execAdcRead_next h <;> exact .inr (.inr ⟨rfl, rfl⟩)
  | adcEvt b => obtain ⟨-, rfl⟩ := execAdcEvt_next h; exact .inr (.inr ⟨rfl, rfl⟩)
  | txTxe => obtain ⟨-, rfl⟩ := execTxTxe_next h; exact .inr (.inr ⟨rfl, rfl⟩)
  | _ => cases h; exact .inr (.inr ⟨rfl, rfl⟩)

/-- A turn other than reset executes a TX.WRITE, executes a TX.EVT, or touches neither TXIE nor the transmit buffer. -/
theorem stepTurn_tx_cases (hu : u ≠ .reset) (h : stepTurn u s = .next t) :
    (∃ d, turnInstr u s = some (.txWrite d) ∧ exec (.txWrite d) s = .next t) ∨
      (turnInstr u s = some .txEvt ∧ exec .txEvt s = .next t) ∨ (t.txie = s.txie ∧ t.tx = s.tx) := by
  obtain ⟨i, hi, hexec⟩ | ⟨-, ⟨p, rfl⟩ | rfl⟩ := stepTurn_turnInstr hu h
  · obtain ⟨d, rfl⟩ | rfl | hframe := exec_tx_cases hexec
    · exact .inl ⟨d, hi, hexec⟩
    · exact .inr (.inl ⟨hi, hexec⟩)
    · exact .inr (.inr hframe)
  · exact .inr (.inr ⟨rfl, rfl⟩)
  · exact .inr (.inr ⟨rfl, rfl⟩)

/-- TXIE is set after a TX.WRITE that completes, and after one that holds while it was set (R120). -/
theorem exec_txWrite_txie (h : exec (.txWrite d) s = .next t) (hor : s.tx.isFull s.config.cTX = false ∨ s.txie = true) :
    t.txie = true := by
  obtain ⟨heq, rfl⟩ | ⟨-, rfl⟩ := execTxWrite_next h
  · exact hor.resolve_left fun hroom => Bool.eq_false_iff.mp hroom (RingBuffer.isFull_iff.mpr heq)
  · rfl

/-- While TXIE is 0, TX.EVT is not enabled (R124). -/
theorem exec_txEvt_refused (h : s.txie = false) : exec .txEvt s = .refused (.eventNotEnabled "tx.evt") := by
  simp [exec, execTxEvt, State.irqTxReq, h]

/-! ### The transmit buffer never overflows -/

/-- At most one use of a ring buffer is none, one PRODUCE, or one CONSUME that delivers what it takes. -/
theorem RingBuffer.Uses.cases (h : r.Uses c ops r' out out') (hone : ops.length ≤ 1) :
    (ops = [] ∧ r' = r ∧ out' = out) ∨ (∃ v, ops = [.produce v] ∧ r' = r.produce c v ∧ out' = out) ∨
      (∃ v, ops = [.consume] ∧ r.consume c = .took v r' ∧ out' = out ++ [v]) := by
  obtain ⟨l, hrun, rfl⟩ := h
  match ops with
  | [] => cases hrun; exact .inl ⟨rfl, rfl, List.append_nil _⟩
  | [.produce v] => cases hrun; exact .inr (.inl ⟨v, rfl, rfl, List.append_nil _⟩)
  | [.consume] =>
    obtain ⟨v, r₁, l₁, hc, hrest, rfl⟩ := RingBuffer.runOps_consume_eq_some_iff.mp hrun
    cases hrest
    exact .inr (.inr ⟨v, rfl, hc, rfl⟩)
  | _ :: _ :: _ => simp at hone

@[simp] theorem RingBuffer.pend_reset (n : Nat) (c : Capacity) : (RingBuffer.reset n).pend c = 0 := by
  simp [RingBuffer.pend_eq_mod, RingBuffer.reset]

theorem txOp_length_le_one (u : Turn) (s : State) : (txOp u s).length ≤ 1 := by
  unfold txOp
  split
  · exact txOpOf_length_le_one _ s
  · exact Nat.zero_le 1

/-- Only a TX.WRITE that finds room produces (R120). -/
theorem isFull_eq_false_of_txOpOf_eq_produce (h : txOpOf i s = [.produce d]) : s.tx.isFull s.config.cTX = false := by
  cases i with
  | txWrite b =>
    cases hfull : s.tx.isFull s.config.cTX with
    | false => rfl
    | true => simp [txOpOf, hfull] at h
  | txEvt => simp only [txOpOf] at h; split at h <;> cases h
  | _ => cases h

theorem isFull_eq_false_of_txOp_eq_produce (h : txOp u s = [.produce d]) : s.tx.isFull s.config.cTX = false := by
  unfold txOp at h
  split at h
  · exact isFull_eq_false_of_txOpOf_eq_produce h
  · cases h

/-- No PRODUCE of the transmit buffer along a run without reset overflows (R127). -/
theorem neverOverflows_historyOf_txOp {turns : List Turn} (hh : s.tx.head.toNat < s.config.cTX.size)
    (ht : s.tx.tail.toNat < s.config.cTX.size) (hreset : Turn.reset ∉ turns) (hrun : runTurns s turns = .next t) :
    neverOverflows s.config.cTX (s.tx.pend s.config.cTX) (historyOf txOp s turns) := by
  induction turns generalizing s with
  | nil => trivial
  | cons u turns ih =>
    rw [List.mem_cons, not_or] at hreset
    obtain ⟨hu, hturns⟩ := hreset
    obtain ⟨x, hstep, hrest⟩ := runTurns_cons_eq_next_iff.mp hrun
    obtain ⟨hconfig, -, htx, -⟩ := stepTurn_usesRings (Ne.symm hu) hstep
    rw [historyOf_cons_of_next hstep]
    have hx := ih (s := x)
    rw [hconfig] at hx
    obtain ⟨hop, hr, -⟩ | ⟨v, hop, hr, -⟩ | ⟨v, hop, hc, -⟩ := htx.cases (txOp_length_le_one u s)
    · rw [hop]
      rw [hr] at hx
      exact hx hh ht hturns hrest
    · have hroom : s.tx.pend s.config.cTX ≠ s.config.cTX.size - 1 := fun hfull =>
        Bool.eq_false_iff.mp (isFull_eq_false_of_txOp_eq_produce hop) ((RingBuffer.isFull_iff_pend hh ht).mpr hfull)
      have hpend_lt := s.tx.pend_lt s.config.cTX
      have hlt : s.tx.pend s.config.cTX + 1 < s.config.cTX.size := by omega
      rw [hop]
      rw [hr, RingBuffer.pend_produce hh ht, Nat.mod_eq_of_lt hlt] at hx
      exact ⟨hlt, hx (indexSucc_lt _ _) ht hturns hrest⟩
    · obtain ⟨hne, -, hr⟩ := RingBuffer.consume_took.mp hc
      rw [hop]
      rw [hr, (RingBuffer.pend_advance hh ht hne).2] at hx
      exact hx hh (indexSucc_lt _ _) hturns hrest

end Sys2Proof.Machine

namespace Sys2Proof

open Machine

/-! ### The statements about the Transmit Channel -/

/-- Settles O21: from reset the transmit buffer never overflows, so its consumer delivers a first part of what was produced. -/
theorem transmittedBytesAreWrittenBytes : Obligations.TransmittedBytesAreWrittenBytes := by
  unfold Obligations.TransmittedBytesAreWrittenBytes
  intro cfg prog turns t hreset hrun
  have hno := neverOverflows_historyOf_txOp (s := State.boot cfg prog []) cfg.cTX.size_pos cfg.cTX.size_pos hreset hrun
  obtain ⟨sent, hops, hout⟩ := (runTurns_usesRings hreset hrun).tx
  obtain ⟨-, -, hsent, -⟩ := fifoWithoutOverflow 8 cfg.cTX _ _ _ hops (RingBuffer.pend_reset 8 cfg.cTX ▸ hno)
  exact hout.trans hsent

/-- Settles O39: a turn that changes TXIE executes a TX.WRITE, which can only set it, or a TX.EVT, which clears it on an empty
buffer. -/
theorem gatingStateMachine : Obligations.GatingStateMachine := by
  unfold Obligations.GatingStateMachine
  refine fun s t => ⟨fun d h hroom => exec_txWrite_txie h (.inl hroom), fun h => ?evt, fun u hu h hne => ?changes⟩
  case evt =>
    obtain ⟨htxie, -, ⟨heq, rfl⟩ | ⟨b, hdata, -, rfl⟩⟩ := execTxEvt_next h
    · simp [htxie, RingBuffer.isEmpty, heq]
    · simp [htxie, RingBuffer.isEmpty, hdata]
  case changes =>
    obtain ⟨d, hi, hexec⟩ | ⟨hi, hexec⟩ | ⟨hsame, -⟩ := stepTurn_tx_cases hu h
    · obtain ⟨-, rfl⟩ | ⟨-, rfl⟩ := execTxWrite_next hexec
      · exact absurd rfl hne
      · exact .inl ⟨Bool.eq_false_iff.mpr (Ne.symm hne), rfl, d, hi⟩
    · obtain ⟨htxie, -, ⟨heq, rfl⟩ | ⟨b, -, -, rfl⟩⟩ := execTxEvt_next hexec
      · exact .inr ⟨htxie, rfl, hi, RingBuffer.isEmpty_iff.mpr heq⟩
      · exact absurd rfl hne
    · exact absurd hsame hne

/-- Settles O40: after the TX.EVT that clears TXIE, TX.EVT is refused, so only a TX.WRITE can touch TXIE or the buffer. -/
theorem gatingHappensOncePerDrain : Obligations.GatingHappensOncePerDrain := by
  unfold Obligations.GatingHappensOncePerDrain
  intro s t hempty h
  obtain ⟨htxie, -, ⟨-, rfl⟩ | ⟨b, hdata, -, -⟩⟩ := execTxEvt_next h
  case inr => exact absurd (RingBuffer.isEmpty_iff.mp hempty) hdata
  refine ⟨htxie, rfl, hempty, fun u x hu hstep hnowrite => ?quiet, exec_txEvt_refused rfl, fun d x hroom hwrite => ?rearmed⟩
  case quiet =>
    obtain ⟨d, hi, -⟩ | ⟨-, hexec⟩ | ⟨hsame, hbuffer⟩ := stepTurn_tx_cases hu hstep
    · exact absurd hi (hnowrite d)
    · rw [exec_txEvt_refused rfl] at hexec
      cases hexec
    · exact ⟨hsame, hbuffer ▸ hempty, exec_txEvt_refused hsame⟩
  case rearmed =>
    have harmed : x.txie = true := exec_txWrite_txie hwrite (.inl hroom)
    exact ⟨harmed, fun d' y hwrite' => exec_txWrite_txie hwrite' (.inr harmed)⟩

end Sys2Proof
end

section
/-!
PROOF. The Sampling Channel (spec/43_sampling.md R140, R141, R146, R148): what ADC.START does, when ADC.EVT is enabled, and that a
second request while a conversion is in flight merges with the first.
-/
namespace Sys2Proof.Machine

variable {d : Sample} {s t : State}

/-- ADC.START records the request and completes, in every state (R140). -/
theorem exec_adcStart_next (h : exec .adcStart s = .next t) :
    t = ((s.setAdcStart true).setAdcStatus .pending).completeFg := by
  cases h
  rfl

/-- While a conversion is in flight, ADC.EVT delivers its result and ends it (R141). -/
theorem exec_adcEvt_of_adcStart (h : s.adcStart = true) :
    exec (.adcEvt d) s =
      .next (((s.setAdc (s.adc.produce s.config.cADC d)).setAdcStatus .ready).setAdcStart false) := by
  simp [exec, execAdcEvt, State.adcInflight, h]

/-- While no conversion is in flight, ADC.EVT is not enabled (R146). -/
theorem exec_adcEvt_refused (h : s.adcStart = false) :
    exec (.adcEvt d) s = .refused (.eventNotEnabled "adc.evt_dW") := by
  simp [exec, execAdcEvt, State.adcInflight, h]

end Sys2Proof.Machine

namespace Sys2Proof

open Machine

/-- Settles O49: the first ADC.START already set what the second one sets, and one ADC.EVT clears the request both left. -/
theorem secondStartMerges : Obligations.SecondStartMerges := by
  unfold Obligations.SecondStartMerges
  intro s a b hfirst hsecond
  obtain rfl := exec_adcStart_next hfirst
  obtain rfl := exec_adcStart_next hsecond
  exact ⟨rfl, fun d => ⟨_, exec_adcEvt_of_adcStart rfl, fun d' => exec_adcEvt_refused rfl⟩⟩

end Sys2Proof
end

section
/-!
PROOF. Faults and refusals (spec/60_exceptions.md R162, R163, R167): the block goes on after IllegalCommand, no instruction reads or
writes ERR and ERRCODE, and an event is refused exactly while it is not enabled.
-/
namespace Sys2Proof.Machine

variable {p : Port} {k : Command} {i : Instr} {s t : State} {u : Turn} {r : Refusal}

/-! ### Events that are not enabled -/

/-- TX.EVT is requested while the interrupt is enabled and the register empty (R39). -/
theorem State.irqTxReq_iff : s.irqTxReq = true ↔ s.txie = true ∧ s.txe = true := Bool.and_eq_true_iff

/-- Without a request, TX.EVT is not enabled (R124). -/
theorem exec_txEvt_refused_of_not_requested (h : s.irqTxReq = false) :
    exec .txEvt s = .refused (.eventNotEnabled "tx.evt") := by
  simp [exec, execTxEvt, h]

/-- A requested TX.EVT disarms or sends (or meets a slot that was never written, R100), but is not refused (R121). -/
theorem exec_txEvt_ne_refused (h : s.irqTxReq = true) : exec .txEvt s ≠ .refused r := by
  simp only [exec, execTxEvt, h, if_true]
  cases s.tx.consume s.config.cTX <;> nofun

/-- While the register is empty, TX.TXE is not enabled (R125). -/
theorem exec_txTxe_refused (h : s.txe = true) : exec .txTxe s = .refused (.eventNotEnabled "tx.txe") := by
  simp [exec, execTxTxe, h]

/-- While the register is not empty, TX.TXE empties it (R122). -/
theorem exec_txTxe_of_not_txe (h : s.txe = false) : exec .txTxe s = .next (s.setTxe true) := by
  simp [exec, execTxTxe, h]

/-! ### ERR and ERRCODE -/

/-- A legal command on its own port is executed (R79). -/
theorem present_of_decode (h : decode p s.config.wADC k = .instr i) : present p k s = exec i s := by
  simp [present, h]

/-- A faulted run never ends successfully (R162, R207). -/
theorem endOfRun_eq_false_of_faulted (h : faulted s = true) : endOfRun s = false := by
  have herr : s.err = true := h
  simp [endOfRun, herr]

/-- An instruction carries any value of ERR and ERRCODE through unread: what it does depends on the rest of the state only (R163). -/
theorem exec_carries_fault (i : Instr) (s : State) (e : Bool) (c : BitVec 4) :
    exec i { s with err := e, errcode := c } = mapNext (fun t => { t with err := e, errcode := c }) (exec i s) := by
  cases i with
  | rxRead => simp only [exec, execRxRead]; cases s.rx.consume s.config.cRX <;> rfl
  | adcRead => simp only [exec, execAdcRead]; cases s.adc.consume s.config.cADC <;> rfl
  | txWrite d => simp only [exec, execTxWrite]; cases s.tx.isFull s.config.cTX <;> rfl
  | txEvt =>
    obtain hreq | hreq := Bool.eq_false_or_eq_true s.irqTxReq
    · have hreq' : ({ s with err := e, errcode := c } : State).irqTxReq = true := hreq
      simp only [exec, execTxEvt, hreq, hreq', if_true]
      cases s.tx.consume s.config.cTX <;> rfl
    · rw [exec_txEvt_refused_of_not_requested hreq]
      exact exec_txEvt_refused_of_not_requested hreq
  | txTxe =>
    obtain htxe | htxe := Bool.eq_false_or_eq_true s.txe
    · rw [exec_txTxe_refused htxe]
      exact exec_txTxe_refused htxe
    · rw [exec_txTxe_of_not_txe htxe]
      exact exec_txTxe_of_not_txe htxe
  | adcEvt d =>
    obtain hstart | hstart := Bool.eq_false_or_eq_true s.adcStart
    · rw [exec_adcEvt_of_adcStart hstart]
      exact exec_adcEvt_of_adcStart hstart
    · rw [exec_adcEvt_refused hstart]
      exact exec_adcEvt_refused hstart
  | _ => rfl

/-- No instruction writes ERR or ERRCODE: carrying through the values the state has changes nothing (R36, R163). -/
theorem exec_fault_frame (h : exec i s = .next t) : t.err = s.err ∧ t.errcode = s.errcode := by
  have hcarry : exec i s = mapNext (fun t => { t with err := s.err, errcode := s.errcode }) (exec i s) :=
    exec_carries_fault i s s.err s.errcode
  rw [h] at hcarry
  have ht : t = { t with err := s.err, errcode := s.errcode } := Host.Outcome.next.inj hcarry
  exact ⟨(congrArg State.err ht :), (congrArg State.errcode ht :)⟩

/-- After the first fault no turn but reset changes ERR or ERRCODE, a further fault included (R163). -/
theorem stepTurn_keeps_first_fault (hu : u ≠ .reset) (herr : s.err = true) (h : stepTurn u s = .next t) :
    t.err = true ∧ t.errcode = s.errcode := by
  obtain ⟨i, -, hexec⟩ | ⟨-, ⟨p, rfl⟩ | rfl⟩ := stepTurn_turnInstr hu h
  · rw [← herr]
    exact exec_fault_frame hexec
  · exact ⟨rfl, if_pos herr⟩
  · exact ⟨herr, rfl⟩

end Sys2Proof.Machine

namespace Sys2Proof

open Machine

/-! ### The statements about faults and refusals -/

/-- Settles O7: the next state is the one `State.raiseIllegal` writes out, in the same configuration, so the decoder reads later words
as before; its ERR alone keeps it from being a successful end. -/
theorem illegalCommandEffect : Obligations.IllegalCommandEffect := by
  unfold Obligations.IllegalCommandEffect
  intro p k s hillegal
  have hfaulted : faulted (s.raiseIllegal p) = true := rfl
  exact ⟨s.raiseIllegal p, present_illegal hillegal, s.raiseIllegal_eq p, fun q k' i hlegal => present_of_decode hlegal, hfaulted,
    endOfRun_eq_false_of_faulted hfaulted⟩

/-- Settles O42: an instruction carries ERR and ERRCODE through, a second IllegalCommand keeps the first one's code, and reset clears
both. -/
theorem faultFlagIsSticky : Obligations.FaultFlagIsSticky := by
  unfold Obligations.FaultFlagIsSticky
  refine ⟨fun u s t herr h => ⟨fun hu => stepTurn_keeps_first_fault hu herr h, fun hreset => ?reset⟩, exec_carries_fault⟩
  case reset =>
    subst hreset
    cases h
    exact ⟨rfl, rfl⟩

/-- Settles O33: each of the three events is refused while its condition fails, and is a step (for TX.EVT possibly a stop, but no
refusal) while it holds. -/
theorem disabledEventsAreRefused : Obligations.DisabledEventsAreRefused := by
  unfold Obligations.DisabledEventsAreRefused
  refine fun s => ⟨fun hidle => ?txEvtIdle, exec_txTxe_refused, fun d => exec_adcEvt_refused,
    fun htxie htxe e => exec_txEvt_ne_refused (State.irqTxReq_iff.mpr ⟨htxie, htxe⟩), fun hfull e => ?txTxe, fun d hstart e => ?adcEvt⟩
  case txEvtIdle =>
    exact exec_txEvt_refused_of_not_requested (Bool.eq_false_iff.mpr (hidle ∘ State.irqTxReq_iff.mp))
  case txTxe =>
    rw [exec_txTxe_of_not_txe hfull]
    nofun
  case adcEvt =>
    rw [exec_adcEvt_of_adcStart hstart]
    nofun

end Sys2Proof
end

section
/-!
PROOF. Building a block and resetting it (spec/00_scope.md R11; spec/70_reset_and_hazards.md R190, R193): what the configuration check
accepts, part by part, and the state a reset leaves.
-/
namespace Sys2Proof

variable {n cRX cTX cADC wRX wTX wADC : Nat} {c : Capacity} {w : AdcWidth} {cfg : Config}

/-! ### The configuration check -/

/-- The check finds a capacity by its number of slots (R7). -/
theorem Capacity.ofNat?_eq_some_iff : Capacity.ofNat? n = some c ↔ c.size = n := by
  constructor
  · intro h
    exact beq_iff_eq.mp (List.find?_some h :)
  · rintro rfl
    cases c <;> rfl

/-- The check finds a W_ADC by its number of bits (R8). -/
theorem AdcWidth.ofNat?_eq_some_iff : AdcWidth.ofNat? n = some w ↔ w.bits = n := by
  constructor
  · intro h
    exact beq_iff_eq.mp (List.find?_some h :)
  · rintro rfl
    cases w <;> rfl

theorem Capacity.iw_bounds (c : Capacity) : 1 ≤ c.iw ∧ c.iw ≤ 8 := by
  cases c <;> decide

/-- Every index width from 1 to 8 is that of a capacity (R7, R9). -/
theorem Capacity.exists_iw_eq {k : Nat} (hlow : 1 ≤ k) (hhigh : k ≤ 8) : ∃ c : Capacity, c.iw = k := by
  interval_cases k
  exacts [⟨.c2, rfl⟩, ⟨.c4, rfl⟩, ⟨.c8, rfl⟩, ⟨.c16, rfl⟩, ⟨.c32, rfl⟩, ⟨.c64, rfl⟩, ⟨.c128, rfl⟩, ⟨.c256, rfl⟩]

/-- The numbers of slots are the powers of two from 2 to 256 (R7). -/
theorem Capacity.exists_size_eq_iff : (∃ c : Capacity, c.size = n) ↔ ∃ k, 1 ≤ k ∧ k ≤ 8 ∧ n = 2 ^ k := by
  constructor
  · rintro ⟨c, rfl⟩
    obtain ⟨hlow, hhigh⟩ := c.iw_bounds
    exact ⟨c.iw, hlow, hhigh, rfl⟩
  · rintro ⟨k, hlow, hhigh, rfl⟩
    obtain ⟨c, rfl⟩ := Capacity.exists_iw_eq hlow hhigh
    exact ⟨c, rfl⟩

/-- The legal values of W_ADC are 8 and 16 (R8). -/
theorem AdcWidth.exists_bits_eq_iff : (∃ w : AdcWidth, w.bits = n) ↔ n = 8 ∨ n = 16 := by
  constructor
  · rintro ⟨w, rfl⟩
    cases w with
    | w8 => exact .inl rfl
    | w16 => exact .inr rfl
  · rintro (rfl | rfl)
    · exact ⟨.w8, rfl⟩
    · exact ⟨.w16, rfl⟩

/-- The check builds a configuration exactly from its own parameters (R193). -/
theorem Config.build?_eq_some_iff :
    Config.build? cRX cTX cADC wRX wTX wADC = some cfg ↔
      (wRX = 8 ∧ wTX = 8) ∧
        cfg.cRX.size = cRX ∧ cfg.cTX.size = cTX ∧ cfg.cADC.size = cADC ∧ cfg.wADC.bits = wADC := by
  simp only [← Capacity.ofNat?_eq_some_iff, ← AdcWidth.ofNat?_eq_some_iff]
  constructor
  · intro h
    unfold Config.build? at h
    split at h
    next hwidths =>
      split at h
      next hRX hTX hADC hW =>
        cases h
        exact ⟨hwidths, hRX, hTX, hADC, hW⟩
      · nomatch h
    · nomatch h
  · rintro ⟨hwidths, hRX, hTX, hADC, hW⟩
    simp [Config.build?, hwidths, hRX, hTX, hADC, hW]

end Sys2Proof

namespace Sys2Proof.Machine

/-! ### A ring buffer after reset -/

theorem RingBuffer.reset_head (n : Nat) : (RingBuffer.reset n).head = 0 := rfl
theorem RingBuffer.reset_tail (n : Nat) : (RingBuffer.reset n).tail = 0 := rfl

end Sys2Proof.Machine

namespace Sys2Proof

open Machine

/-! ### The statements about building and resetting -/

/-- Settles O56: the check builds a configuration from its own parameters only, and its capacities and W_ADC take exactly the legal
numbers. -/
theorem buildAcceptsLegalConfigurationsOnly : Obligations.BuildAcceptsLegalConfigurationsOnly := by
  unfold Obligations.BuildAcceptsLegalConfigurationsOnly
  intro cRX cTX cADC wRX wTX wADC legal
  refine ⟨⟨fun ⟨cfg, h⟩ => ?acceptedIsLegal, fun ⟨hRX, hTX, hADC, hwRX, hwTX, hW⟩ => ?legalIsAccepted⟩, fun cfg h => ?parameters⟩
  case acceptedIsLegal =>
    obtain ⟨⟨hwRX, hwTX⟩, hRX, hTX, hADC, hW⟩ := Config.build?_eq_some_iff.mp h
    exact ⟨Capacity.exists_size_eq_iff.mp ⟨_, hRX⟩, Capacity.exists_size_eq_iff.mp ⟨_, hTX⟩,
      Capacity.exists_size_eq_iff.mp ⟨_, hADC⟩, hwRX, hwTX, AdcWidth.exists_bits_eq_iff.mp ⟨_, hW⟩⟩
  case legalIsAccepted =>
    obtain ⟨a, ha⟩ := Capacity.exists_size_eq_iff.mpr hRX
    obtain ⟨b, hb⟩ := Capacity.exists_size_eq_iff.mpr hTX
    obtain ⟨c, hc⟩ := Capacity.exists_size_eq_iff.mpr hADC
    obtain ⟨w, hw⟩ := AdcWidth.exists_bits_eq_iff.mpr hW
    exact ⟨⟨a, b, c, w⟩, Config.build?_eq_some_iff.mpr ⟨⟨hwRX, hwTX⟩, ha, hb, hc, hw⟩⟩
  case parameters =>
    exact (Config.build?_eq_some_iff.mp h).2

/-- Settles O44: the reset turn gives `State.resetBlock`, and the laws of its fields are the values asked for. -/
theorem resetSetsResetValues : Obligations.ResetSetsResetValues := by
  unfold Obligations.ResetSetsResetValues
  intro s
  have hreset : stepTurn .reset s = .next s.resetBlock := rfl
  refine ⟨s.resetBlock, hreset, ?_⟩
  simp [RingBuffer.reset_head, RingBuffer.reset_tail]

end Sys2Proof
end

section
/-!
PROOF. Decoding is the inverse of encoding (spec/30_encoding.md R70 to R81, R83): what an instruction keeps when its data word is put
in, exactly which commands decode to an instruction, and the rest as legal words, illegal words and malformed commands.
-/
namespace Sys2Proof

variable {p : Port} {w : AdcWidth} {k : Command} {i j : Instr} {n : Nat} {d e : Sample} {data : Option Sample}

/-! ### Data words -/

theorem fitsWidth_iff : fitsWidth n d = true ↔ d.toNat < 2 ^ n := decide_eq_true_iff

/-- A byte fits its data word (R75). -/
theorem fitsWidth_setWidth (b : Byte) : fitsWidth 8 (b.setWidth 16) = true := by
  rw [fitsWidth_iff, BitVec.toNat_setWidth_of_le (by decide)]
  exact b.isLt

/-- A data word that fits 8 bits comes back from its byte. -/
theorem setWidth_setWidth_of_fitsWidth (h : fitsWidth 8 d = true) : (d.setWidth 8).setWidth 16 = d := by
  rw [fitsWidth_iff] at h
  apply BitVec.eq_of_toNat_eq
  rw [BitVec.toNat_setWidth, BitVec.toNat_setWidth, Nat.mod_eq_of_lt h, Nat.mod_eq_of_lt d.isLt]

/-! ### An instruction with another data word put in -/

@[simp] theorem Instr.port_withData (d : Sample) (i : Instr) : (i.withData d).port = i.port := by cases i <;> rfl
@[simp] theorem Instr.dataWidth_withData (w : AdcWidth) (d : Sample) (i : Instr) :
    (i.withData d).dataWidth w = i.dataWidth w := by cases i <;> rfl
@[simp] theorem encodeWord_withData (d : Sample) (i : Instr) : encodeWord (i.withData d) = encodeWord i := by cases i <;> rfl

/-- An instruction has a data word exactly where R75 gives it one. -/
theorem Instr.data_eq_none_iff (w : AdcWidth) (i : Instr) : i.data = none ↔ i.dataWidth w = none := by
  cases i <;> simp [Instr.data, Instr.dataWidth]

/-- Without a data word there is nothing to put in. -/
theorem Instr.withData_of_data_eq_none (h : i.data = none) : i.withData d = i := by
  cases i <;> simp [Instr.data] at h <;> rfl

/-- Putting an instruction's own data word in gives it back, whatever stood there. -/
theorem Instr.withData_of_data_eq_some (h : i.data = some d) : (i.withData e).withData d = i := by
  cases i <;> simp [Instr.data] at h <;> subst h <;> simp [Instr.withData]

/-- The data word of a well-formed instruction fits (R83). -/
theorem Instr.fitsWidth_of_wellFormed (hwf : i.wellFormed w = true) (hn : i.dataWidth w = some n) (hd : i.data = some d) :
    fitsWidth n d = true := by
  cases i with
  | txWrite b => cases hn; cases hd; exact fitsWidth_setWidth b
  | rxEvt b => cases hn; cases hd; exact fitsWidth_setWidth b
  | adcEvt b => cases hn; cases hd; exact hwf
  | _ => nomatch hn

/-- An instruction without a data word is well formed. -/
theorem Instr.wellFormed_of_dataWidth_eq_none (h : i.dataWidth w = none) : i.wellFormed w = true := by
  cases i with
  | txWrite | rxEvt | adcEvt => nomatch h
  | _ => rfl

/-- Putting in a data word that fits gives a well-formed instruction that carries it. -/
theorem Instr.withData_of_fitsWidth (hn : i.dataWidth w = some n) (hfits : fitsWidth n d = true) :
    (i.withData d).wellFormed w = true ∧ (i.withData d).data = some d := by
  cases i with
  | txWrite b => cases hn; exact ⟨rfl, congrArg some (setWidth_setWidth_of_fitsWidth hfits)⟩
  | rxEvt b => cases hn; exact ⟨rfl, congrArg some (setWidth_setWidth_of_fitsWidth hfits)⟩
  | adcEvt b => cases hn; exact ⟨hfits, rfl⟩
  | _ => nomatch hn

/-! ### The decoder as the inverse of the encoder -/

/-- Up to its data word, every instruction is one of R77's table. -/
theorem Instr.withData_zero_mem_table (i : Instr) : i.withData 0 ∈ commandTable.map Prod.snd := by
  cases i <;> simp [commandTable, Instr.withData]

/-- The table finds each of its own rows by its word. -/
theorem decodeWord_encodeWord_of_mem_table : ∀ j ∈ commandTable.map Prod.snd, decodeWord (encodeWord j) = some j := by
  decide

/-- The decoder finds the row of every encoded word (R77, R78). -/
@[simp] theorem decodeWord_encodeWord (i : Instr) : decodeWord (encodeWord i) = some (i.withData 0) := by
  rw [← encodeWord_withData 0 i]
  exact decodeWord_encodeWord_of_mem_table _ i.withData_zero_mem_table

/-- A legal word on its own port is read together with its data word (R79). -/
theorem decode_of_decodeWord (hi : decodeWord k.word = some i) (hp : i.port = p) : decode p w k = attachData w i k.data := by
  simp [decode, hi, hp]

/-- The data word of a well-formed instruction is accepted, and completes it. -/
theorem attachData_data (hwf : i.wellFormed w = true) : attachData w (i.withData e) i.data = .instr i := by
  unfold attachData
  rw [Instr.dataWidth_withData]
  split
  next _ hdata => rw [Instr.withData_of_data_eq_none hdata]
  next _ _ hn hdata => rw [if_pos (Instr.fitsWidth_of_wellFormed hwf hn hdata), Instr.withData_of_data_eq_some hdata]
  next _ hn hdata => exact absurd ((Instr.data_eq_none_iff w i).mpr hn) (by simp [hdata])
  next _ hn hdata => exact absurd ((Instr.data_eq_none_iff w i).mp hdata) (by simp [hn])

/-- What is accepted is well formed, carries the data word presented, and has the word of the table's row. -/
theorem eq_of_attachData_eq_instr (h : attachData w j data = .instr i) :
    i.wellFormed w = true ∧ i.data = data ∧ encodeWord i = encodeWord j := by
  unfold attachData at h
  split at h
  next hn => cases h; exact ⟨Instr.wellFormed_of_dataWidth_eq_none hn, (Instr.data_eq_none_iff w i).mpr hn, rfl⟩
  next hn =>
    split at h
    next hfits =>
      cases h
      obtain ⟨hwf, hdata⟩ := Instr.withData_of_fitsWidth hn hfits
      exact ⟨hwf, hdata, encodeWord_withData _ _⟩
    next => nomatch h
  next => nomatch h
  next => nomatch h

/-- A command decodes to an instruction exactly if it is the instruction's words, on its port, and the instruction is well formed. -/
theorem decode_eq_instr_iff : decode p w k = .instr i ↔ encode i = k ∧ i.port = p ∧ i.wellFormed w = true := by
  constructor
  · intro h
    have hport : i.port = p := Machine.decode_port h
    unfold decode at h
    split at h
    next => nomatch h
    next j hj =>
      split at h
      next =>
        obtain ⟨hwf, hdata, hword⟩ := eq_of_attachData_eq_instr h
        rw [← eq_encodeWord_of_decodeWord hj] at hword
        exact ⟨congrArg₂ Command.mk hword hdata, hport, hwf⟩
      next => nomatch h
  · rintro ⟨rfl, rfl, hwf⟩
    rw [decode_of_decodeWord (decodeWord_encodeWord i) (Instr.port_withData 0 i)]
    exact attachData_data hwf

/-- A well-formed instruction is read back from its own words on its own port. -/
theorem decode_encode (hwf : i.wellFormed w = true) : decode i.port w (encode i) = .instr i :=
  decode_eq_instr_iff.mpr ⟨rfl, rfl, hwf⟩

/-! ### Legal words and malformed commands -/

/-- A word is legal exactly if a row of R77's table has it (R78). -/
theorem decodeWord_isSome_iff (word : Byte) : (decodeWord word).isSome = true ↔ word ∈ commandTable.map Prod.fst := by
  have hmask : word &&& 0xFF = word := BitVec.and_allOnes
  rw [decodeWord, Option.isSome_map, List.find?_isSome, List.mem_map]
  simp only [hmask, beq_iff_eq, eq_comm (a := word)]

/-- All but twelve of the 256 words are illegal (R80). -/
theorem length_filter_decodeWord_isNone :
    ((List.range 256).filter fun m => (decodeWord (BitVec.ofNat 8 m)).isNone).length = 244 := by
  decide +kernel

/-- A malformed command is refused by name (log entry 9). -/
theorem Machine.present_malformed {s : Machine.State} (h : decode p s.config.wADC k = .malformed) :
    Machine.present p k s = .refused .malformedCommand := by
  simp [Machine.present, h]

/-- A data word where R75 has none. -/
theorem attachData_of_extra_data (hn : i.dataWidth w = none) (hdata : data ≠ none) : attachData w i data = .malformed := by
  obtain ⟨d, rfl⟩ := Option.ne_none_iff_exists'.mp hdata
  simp [attachData, hn]

/-- No data word where R75 gives one. -/
theorem attachData_of_missing_data (hn : i.dataWidth w = some n) : attachData w i none = .malformed := by
  simp [attachData, hn]

/-- A data word that does not fit (R83). -/
theorem attachData_of_wide_data (hn : i.dataWidth w = some n) (hwide : 2 ^ n ≤ d.toNat) :
    attachData w i (some d) = .malformed := by
  simp [attachData, hn, fitsWidth, hwide]

/-! ### The statements -/

/-- Settles O2: the table finds the instruction's row by its word, and its data word fits and completes it. -/
theorem decodeOfEncodeIsInstruction : Obligations.DecodeOfEncodeIsInstruction := by
  unfold Obligations.DecodeOfEncodeIsInstruction
  exact fun w i hwf => decode_encode hwf

/-- Settles O3: the word of a command that decodes is that of the table's row, and its data word was accepted. -/
theorem encodeOfDecodeIsCommand : Obligations.EncodeOfDecodeIsCommand := by
  unfold Obligations.EncodeOfDecodeIsCommand
  exact fun p w k i h => decode_eq_instr_iff.mp h

/-- Settles O1: each of the words is the encoding of its instruction, which is read back from it. -/
theorem commandWordsDecode : Obligations.CommandWordsDecode := by
  unfold Obligations.CommandWordsDecode
  exact ⟨decode_encode (i := .rxRead) rfl, decode_encode (i := .rxEmpty) rfl, decode_encode (i := .txEmpty) rfl,
    decode_encode (i := .txWrite 0x48) rfl, decode_encode (i := .adcRead) rfl, decode_encode (i := .adcEmpty) rfl,
    decode_encode (i := .adcStart) rfl, decode_encode (i := .adcStatus) rfl, decode_encode (i := .rxEvt 0x5A) rfl,
    decode_encode (i := .txEvt) rfl, decode_encode (i := .txTxe) rfl, decode_encode (i := .adcEvt 0x03FF) rfl,
    decode_encode (i := .adcEvt 0x7F) rfl⟩

/-- Settles O5: the legal words are the first column of R77's table. -/
theorem twelveWordsAreLegal : Obligations.TwelveWordsAreLegal := by
  unfold Obligations.TwelveWordsAreLegal
  exact ⟨decodeWord_isSome_iff, length_filter_decodeWord_isNone⟩

/-- Settles O8: a legal word on its own port is malformed in each of the three ways its data word can fail. -/
theorem malformedCommandIsRefused : Obligations.MalformedCommandIsRefused := by
  unfold Obligations.MalformedCommandIsRefused
  intro p k i s hi hp
  have hdecode : decode p s.config.wADC k = attachData s.config.wADC i k.data := decode_of_decodeWord hi hp
  refine ⟨fun hn hdata => ?extra, fun n hn => ⟨fun hdata => ?missing, fun d hdata hwide => ?wide⟩⟩
  case extra => exact Machine.present_malformed (hdecode.trans (attachData_of_extra_data hn hdata))
  case missing => exact Machine.present_malformed (hdecode.trans (hdata ▸ attachData_of_missing_data hn))
  case wide => exact Machine.present_malformed (hdecode.trans (hdata ▸ attachData_of_wide_data hn hwide))

end Sys2Proof
end


section
/-!
PROOF. One ring buffer as a queue (spec/40_ring_buffer.md R97 to R101): the slots of the pending elements, what PRODUCE and CONSUME do to
the queue, and that every use keeps the ring buffer's invariant and laws.
-/
namespace Sys2Proof.Machine

variable {n : Nat} {c : Capacity} {r r' : RingBuffer n} {v : BitVec n} {ops : List (RingOp n)} {out out' : List (BitVec n)}
variable {k l : Nat}

/-! ### The slots of the pending elements -/

/-- CONSUME reads the slot of the first pending element (R91). -/
theorem RingBuffer.front_eq_read (c : Capacity) (r : RingBuffer n) :
    r.front c = Memory.read r.storage (r.pendingSlot c 0) := by
  rw [RingBuffer.front, indexSucc_toNat, RingBuffer.pendingSlot, Nat.add_zero]

/-- After a CONSUME each pending element is one place further to the front. -/
theorem RingBuffer.pendingSlot_advance (c : Capacity) (r : RingBuffer n) (k : Nat) :
    (r.advance c).pendingSlot c k = r.pendingSlot c (k + 1) := by
  rw [RingBuffer.pendingSlot, RingBuffer.pendingSlot, RingBuffer.advance_tail, indexSucc_toNat, Nat.add_assoc, Nat.mod_add_mod,
    Nat.add_comm k 1]

@[simp] theorem RingBuffer.pendingSlot_produce (c : Capacity) (r : RingBuffer n) (v : BitVec n) (k : Nat) :
    (r.produce c v).pendingSlot c k = r.pendingSlot c k := rfl

/-- PRODUCE writes the slot after those of the pending elements. -/
theorem RingBuffer.pendingSlot_pend (hh : r.head.toNat < c.size) (ht : r.tail.toNat < c.size) :
    r.pendingSlot c (r.pend c) = (indexSucc c r.head).toNat := by
  rw [RingBuffer.pendingSlot, indexSucc_toNat, RingBuffer.pend_eq_ite hh ht]
  split_ifs
  · congr 1
    omega
  · rw [show r.tail.toNat + 1 + (r.head.toNat + c.size - r.tail.toNat) = r.head.toNat + 1 + c.size by omega, Nat.add_mod_right]

/-- Fewer than C elements lie in different slots. -/
theorem RingBuffer.pendingSlot_ne (hkl : k < l) (hl : l < c.size) : r.pendingSlot c k ≠ r.pendingSlot c l := fun heq =>
  hkl.ne (Nat.ModEq.eq_of_lt_of_lt (Nat.ModEq.add_left_cancel' _ heq) (hkl.trans hl) hl)

/-! ### The queue -/

theorem RingBuffer.contents_eq_nil_of_pend (h : r.pend c = 0) : r.contents c = [] := by
  simp [RingBuffer.contents, h]

/-- A PRODUCE that finds room appends its element (R98). -/
theorem RingBuffer.contents_produce (hh : r.head.toNat < c.size) (ht : r.tail.toNat < c.size) (hroom : r.isFull c = false) :
    (r.produce c v).contents c = r.contents c ++ [v] := by
  have hlt : r.pend c + 1 < c.size := by
    have hpend := r.pend_lt c
    have hne : r.pend c ≠ c.size - 1 := fun hfull => Bool.eq_false_iff.mp hroom ((RingBuffer.isFull_iff_pend hh ht).mpr hfull)
    omega
  have hold : ∀ k ∈ List.range (r.pend c), Memory.read (r.produce c v).storage (r.pendingSlot c k) =
      Memory.read r.storage (r.pendingSlot c k) := fun k hk => by
    rw [RingBuffer.produce_storage, ← RingBuffer.pendingSlot_pend hh ht]
    exact Memory.read_write_other _ _ (RingBuffer.pendingSlot_ne (List.mem_range.mp hk) (by omega))
  have hnew : Memory.read (r.produce c v).storage (r.pendingSlot c (r.pend c)) = some v := by
    rw [RingBuffer.produce_storage, RingBuffer.pendingSlot_pend hh ht, Memory.read_write_same]
  simp only [RingBuffer.contents, RingBuffer.pend_produce hh ht, Nat.mod_eq_of_lt hlt, List.range_succ, List.filterMap_append,
    RingBuffer.pendingSlot_produce, List.filterMap_congr hold, List.filterMap_cons, List.filterMap_nil, hnew]

/-- A PRODUCE on a full buffer hides every element (R99). -/
theorem RingBuffer.pend_produce_of_isFull (hh : r.head.toNat < c.size) (ht : r.tail.toNat < c.size) (hfull : r.isFull c = true)
    (v : BitVec n) : (r.produce c v).pend c = 0 := by
  have hsize := c.size_pos
  rw [RingBuffer.pend_produce hh ht, (RingBuffer.isFull_iff_pend hh ht).mp hfull, Nat.sub_add_cancel hsize, Nat.mod_self]

/-- A CONSUME takes the first element away (R91, R98). -/
theorem RingBuffer.contents_advance (hh : r.head.toNat < c.size) (ht : r.tail.toNat < c.size) (hne : r.head ≠ r.tail)
    (hfront : r.front c = some v) : r.contents c = v :: (r.advance c).contents c := by
  obtain ⟨hpos, hpend⟩ := RingBuffer.pend_advance hh ht hne
  have hsucc : r.pend c = (r.advance c).pend c + 1 := by omega
  rw [RingBuffer.front_eq_read] at hfront
  simp only [RingBuffer.contents, hsucc, List.range_succ_eq_map, List.filterMap_cons, hfront, List.filterMap_map,
    RingBuffer.pendingSlot_advance, RingBuffer.advance_storage, Function.comp_def]

/-! ### The invariant -/

/-- What is read from a slot is listed there. -/
theorem Memory.mem_of_read {m : Memory n} {a : Nat} (h : Memory.read m a = some v) : (a, v) ∈ m := by
  induction m with
  | nil => nomatch h
  | cons p m ih =>
    obtain ⟨b, w⟩ := p
    rw [Memory.read] at h
    split at h
    next heq => cases h; exact heq ▸ List.mem_cons_self
    next => exact List.mem_cons_of_mem _ (ih h)

theorem RingBuffer.Inv.reset (n : Nat) (c : Capacity) : (RingBuffer.reset n).Inv c where
  head_lt := c.size_pos
  tail_lt := c.size_pos
  slots_lt := nofun
  storage_wf := RingBuffer.reset_wf n
  written k hk := absurd hk (by simp)

/-- PRODUCE writes the one slot that becomes pending (R90). -/
theorem RingBuffer.Inv.produce (h : r.Inv c) (v : BitVec n) : (r.produce c v).Inv c where
  head_lt := indexSucc_lt c r.head
  tail_lt := h.tail_lt
  slots_lt q hq := by
    obtain rfl | hq := Memory.mem_write hq
    · exact indexSucc_lt c r.head
    · exact h.slots_lt q hq
  storage_wf := RingBuffer.produce_wf h.storage_wf
  written k hk := by
    rw [RingBuffer.pend_produce h.head_lt h.tail_lt] at hk
    have hle : k ≤ r.pend c := Nat.le_of_lt_succ (hk.trans_le (Nat.mod_le _ _))
    rw [RingBuffer.produce_storage, RingBuffer.pendingSlot_produce, ← RingBuffer.pendingSlot_pend h.head_lt h.tail_lt,
      Memory.read_write]
    split
    next => exact Option.some_ne_none v
    next hslot => exact h.written k (hle.lt_of_ne fun heq => hslot (heq ▸ rfl))

/-- The tail advances over a pending element only (R91). -/
theorem RingBuffer.Inv.advance (h : r.Inv c) (hne : r.head ≠ r.tail) : (r.advance c).Inv c where
  head_lt := h.head_lt
  tail_lt := indexSucc_lt c r.tail
  slots_lt := h.slots_lt
  storage_wf := h.storage_wf
  written k hk := by
    rw [(RingBuffer.pend_advance h.head_lt h.tail_lt hne).2] at hk
    rw [RingBuffer.pendingSlot_advance]
    exact h.written (k + 1) (by omega)

/-- The slot a CONSUME reads is written wherever the buffer is not empty (R100). -/
theorem RingBuffer.Inv.exists_front (h : r.Inv c) (hne : r.head ≠ r.tail) : ∃ v, r.front c = some v := by
  rw [RingBuffer.front_eq_read]
  exact Option.ne_none_iff_exists'.mp (h.written 0 (RingBuffer.pend_advance h.head_lt h.tail_lt hne).1)

/-- Every pending slot is written, so the queue has as many elements as are pending (R97). -/
theorem RingBuffer.Inv.length_contents (h : r.Inv c) : (r.contents c).length = r.pend c := by
  rw [RingBuffer.contents, List.length_filterMap_eq_countP, List.countP_eq_length.mpr, List.length_range]
  exact fun k hk => Option.isSome_iff_ne_none.mpr (h.written k (List.mem_range.mp hk))

/-! ### What at most one use keeps -/

theorem RingBuffer.Uses.inv (h : r.Uses c ops r' out out') (hone : ops.length ≤ 1) (hinv : r.Inv c) : r'.Inv c := by
  obtain ⟨-, rfl, -⟩ | ⟨v, -, rfl, -⟩ | ⟨v, -, hc, -⟩ := h.cases hone
  · exact hinv
  · exact hinv.produce v
  · obtain ⟨hne, -, rfl⟩ := RingBuffer.consume_took.mp hc
    exact hinv.advance hne

/-- What holds of every stored, delivered and produced element holds of every element stored and delivered after the use. -/
theorem RingBuffer.Uses.forall_elements {P : BitVec n → Prop} (h : r.Uses c ops r' out out') (hone : ops.length ≤ 1)
    (hstored : ∀ q ∈ r.storage, P q.2) (hout : ∀ v ∈ out, P v) (hproduced : ∀ v, ops = [.produce v] → P v) :
    (∀ q ∈ r'.storage, P q.2) ∧ ∀ v ∈ out', P v := by
  obtain ⟨-, rfl, rfl⟩ | ⟨v, hop, rfl, rfl⟩ | ⟨v, -, hc, rfl⟩ := h.cases hone
  · exact ⟨hstored, hout⟩
  · refine ⟨fun q hq => ?_, hout⟩
    obtain rfl | hq := Memory.mem_write hq
    · exact hproduced v hop
    · exact hstored q hq
  · obtain ⟨-, hfront, rfl⟩ := RingBuffer.consume_took.mp hc
    have htaken : P v := hstored _ (Memory.mem_of_read hfront)
    exact ⟨hstored, List.forall_mem_append.mpr ⟨hout, List.forall_mem_singleton.mpr htaken⟩⟩

/-- The counting and slot content laws (R95, R96, R101). -/
theorem RingBuffer.Uses.keepsSlotLaw (h : r.Uses c ops r' out out') (hone : ops.length ≤ 1) :
    r.KeepsSlotLaw c r' ops out out' := by
  intro p q hfollows
  obtain ⟨rfl, rfl, rfl⟩ | ⟨v, rfl, rfl, rfl⟩ | ⟨v, rfl, hc, rfl⟩ := h.cases hone
  · exact ⟨by simpa [producedBy, consumedBy] using hfollows, nofun, fun _ => rfl⟩
  · exact ⟨hfollows.produce v, nofun, fun _ => rfl⟩
  · obtain ⟨hfollows', hrem, hskip⟩ := hfollows.consume hc
    exact ⟨by simpa [producedBy, consumedBy] using hfollows', fun _ => ⟨hrem, v, hskip, rfl⟩, fun hne => absurd rfl hne⟩

/-- The queue (R60, R98, R99). -/
theorem RingBuffer.Uses.movesQueue (h : r.Uses c ops r' out out') (hone : ops.length ≤ 1) (hinv : r.Inv c) :
    r.MovesQueue c r' ops out out' := by
  have hlength := (h.inv hone hinv).length_contents
  have hpend : r'.pend c ≤ c.size - 1 := Nat.le_sub_one_of_lt (r'.pend_lt c)
  obtain ⟨rfl, rfl, rfl⟩ | ⟨v, rfl, rfl, rfl⟩ | ⟨v, rfl, hc, rfl⟩ := h.cases hone
  · exact ⟨.inl rfl, fun _ => ⟨rfl, rfl⟩, nofun, nofun, hlength, hpend⟩
  · refine ⟨.inr (.inr ⟨v, rfl⟩), nofun, nofun, fun w hw => ⟨?_, rfl⟩, hlength, hpend⟩
    cases hw
    split
    next hfull => exact RingBuffer.contents_eq_nil_of_pend (RingBuffer.pend_produce_of_isFull hinv.head_lt hinv.tail_lt hfull v)
    next hroom => exact RingBuffer.contents_produce hinv.head_lt hinv.tail_lt (Bool.eq_false_iff.mpr hroom)
  · obtain ⟨hne, hfront, rfl⟩ := RingBuffer.consume_took.mp hc
    have hfirst := RingBuffer.contents_advance hinv.head_lt hinv.tail_lt hne hfront
    exact ⟨.inr (.inl rfl), nofun, fun _ => ⟨v, hfirst, rfl⟩, nofun, hlength, hpend⟩

end Sys2Proof.Machine

namespace Sys2Proof

open Machine

/-- Settles O14: the overflow takes the pending count from C - 1 to 0, and the next PRODUCE to 1. -/
theorem overflowHidesWholeBuffer : Obligations.OverflowHidesWholeBuffer := by
  unfold Obligations.OverflowHidesWholeBuffer
  intro n c r v w hh ht hfull
  have hhead : (r.produce c v).head = r.tail := RingBuffer.isFull_iff.mp hfull
  have hhidden : (r.produce c v).pend c = 0 := RingBuffer.pend_produce_of_isFull hh ht hfull v
  have hh' : (r.produce c v).head.toNat < c.size := indexSucc_lt c r.head
  have hone : ((r.produce c v).produce c w).pend c = 1 := by
    rw [RingBuffer.pend_produce hh' ht, hhidden]
    exact Nat.mod_eq_of_lt c.two_le_size
  have hread : Memory.read ((r.produce c v).produce c w).storage (indexSucc c r.tail).toNat = some w := by
    rw [RingBuffer.produce_storage, hhead, Memory.read_write_same]
  have hvisible : ((r.produce c v).produce c w).head ≠ ((r.produce c v).produce c w).tail := fun heq => by
    have hzero := (RingBuffer.isEmpty_iff_pend (r := (r.produce c v).produce c w) (indexSucc_lt c _) ht).mp
      (RingBuffer.isEmpty_iff.mpr heq)
    omega
  refine ⟨?_, hhead, hhidden, RingBuffer.isEmpty_iff.mpr hhead, hone, hread, RingBuffer.consume_took.mpr ⟨hvisible, hread, rfl⟩⟩
  rw [← hhead]
  exact Memory.read_write_same _ _ v

end Sys2Proof
end


section
/-!
PROOF. What each command and event does (spec/41_receive.md, spec/42_transmit.md, spec/43_sampling.md): one equation per instruction and
case, how a foreground command holds, and which instruction a step runs.
-/
namespace Sys2Proof.Machine

variable {i : Instr} {k : Command} {b d : Byte} {x : Sample} {s t : State} {n : Nat} {r : RingBuffer n}

/-! ### Commands that read, write or hold -/

theorem exec_rxRead_of_empty (h : s.rx.head = s.rx.tail) : exec .rxRead s = .next s := by
  simp [exec, execRxRead, hold, RingBuffer.consume_held.mpr h]

theorem exec_rxRead_of_front (hne : s.rx.head ≠ s.rx.tail) (hfront : s.rx.front s.config.cRX = some b) :
    exec .rxRead s = .next (((s.setRx (s.rx.advance s.config.cRX)).emitFg (.byte b)).completeFg) := by
  simp [exec, execRxRead, RingBuffer.consume_took.mpr ⟨hne, hfront, rfl⟩]

theorem exec_adcRead_of_empty (h : s.adc.head = s.adc.tail) : exec .adcRead s = .next s := by
  simp [exec, execAdcRead, hold, RingBuffer.consume_held.mpr h]

theorem exec_adcRead_of_front (hne : s.adc.head ≠ s.adc.tail) (hfront : s.adc.front s.config.cADC = some x) :
    exec .adcRead s = .next (((s.setAdc (s.adc.advance s.config.cADC)).emitFg (.sample x)).completeFg) := by
  simp [exec, execAdcRead, RingBuffer.consume_took.mpr ⟨hne, hfront, rfl⟩]

theorem exec_txWrite_of_full (h : indexSucc s.config.cTX s.tx.head = s.tx.tail) : exec (.txWrite d) s = .next s := by
  simp [exec, execTxWrite, hold, RingBuffer.isFull, h]

theorem exec_txWrite_of_room (h : indexSucc s.config.cTX s.tx.head ≠ s.tx.tail) :
    exec (.txWrite d) s = .next (((s.setTx (s.tx.produce s.config.cTX d)).setTxie true).completeFg) := by
  simp [exec, execTxWrite, RingBuffer.isFull, h]

theorem exec_txEvt_of_empty (hreq : s.irqTxReq = true) (h : s.tx.head = s.tx.tail) :
    exec .txEvt s = .next (s.setTxie false) := by
  simp [exec, execTxEvt, hreq, RingBuffer.consume_held.mpr h]

theorem exec_txEvt_of_front (hreq : s.irqTxReq = true) (hne : s.tx.head ≠ s.tx.tail)
    (hfront : s.tx.front s.config.cTX = some b) :
    exec .txEvt s = .next (((s.setTx (s.tx.advance s.config.cTX)).emitTx b).setTxe false) := by
  simp [exec, execTxEvt, hreq, RingBuffer.consume_took.mpr ⟨hne, hfront, rfl⟩]

/-- A foreground command that is not enabled holds: a read of an empty buffer, or a write to a full one (R14). -/
theorem exec_of_not_isEnabled (hport : i.port = .fg) (h : isEnabled i s = false) : exec i s = .next s := by
  cases i with
  | rxRead => exact exec_rxRead_of_empty (by simpa [isEnabled] using h)
  | adcRead => exact exec_adcRead_of_empty (by simpa [isEnabled] using h)
  | txWrite d => exact exec_txWrite_of_full (by simpa [isEnabled] using h)
  | rxEmpty | txEmpty | adcEmpty | adcStart | adcStatus => nomatch h
  | rxEvt | txEvt | txTxe | adcEvt => nomatch hport

/-! ### Reports -/

/-- The word an EMPTY command returns (R76, R92). -/
theorem boolResult_isEmpty (r : RingBuffer n) : boolResult r.isEmpty = .bit (if r.head = r.tail then 1 else 0) := by
  simp [boolResult, RingBuffer.isEmpty]

/-- The word ADC.STATUS returns (R34, R76). -/
theorem statusResult_eq (v : AdcStatus) : statusResult v = .bit (if v = .pending then 1 else 0) := by
  cases v <;> rfl

/-! ### The instruction a step runs -/

/-- Past the end of the schedule the next turn is a free one (log entry 5). -/
theorem State.nextTurn_of_nil (s : State) (h : s.schedule = []) : s.nextTurn = Config.freeTurn s.draws := by
  simp [State.nextTurn, h]

theorem step_of_fg (hturn : s.nextTurn = .fg) (hk : s.program[s.fpc]? = some k) (hd : decode .fg s.config.wADC k = .instr i) :
    step s = exec i s.popTurn := by
  have hpresent : present .fg k s.popTurn = exec i s.popTurn := present_of_decode (by simpa using hd)
  simp [step, hturn, stepTurn, stepForeground, hk, hpresent]

theorem step_of_event (hturn : s.nextTurn = .event k) (hd : decode .event s.config.wADC k = .instr i) :
    step s = exec i s.popTurn := by
  have hpresent : present .event k s.popTurn = exec i s.popTurn := present_of_decode (by simpa using hd)
  simp [step, hturn, stepTurn, hpresent]

/-- Taking a turn off the run's input enables nothing and disables nothing. -/
@[simp] theorem isEnabled_popTurn (i : Instr) (s : State) : isEnabled i s.popTurn = isEnabled i s := by
  cases i <;> simp [isEnabled, State.irqTxReq, State.adcInflight]

/-! ### Placing a table word -/

/-- A table word decodes to an instruction exactly from the command it is split into. -/
theorem commandOfBits_of_decodeTableWord {nbits w : Nat} (h : decodeTableWord nbits w = some i) :
    commandOfBits nbits w = some (encode i) ∧ portOfWord (encode i).word = i.port := by
  unfold decodeTableWord at h
  split at h
  next => nomatch h
  next k hk =>
    split at h
    next j hd =>
      cases h
      obtain ⟨rfl, hport, -⟩ := decode_eq_instr_iff.mp hd
      exact ⟨hk, hport.symm⟩
    next => nomatch h
    next => nomatch h

theorem withFetchWord_eq_place {nbits w : Nat} (h : decodeTableWord nbits w = some i) :
    s.withFetchWord nbits w = s.place i.port (encode i) := by
  obtain ⟨hbits, hport⟩ := commandOfBits_of_decodeTableWord h
  simp [State.withFetchWord, hbits, hport]

@[simp] theorem placeCommand_getElem?_self (l : List Command) (m : Nat) (k : Command) : (placeCommand l m k)[m]? = some k := by
  induction m generalizing l with
  | zero => cases l <;> rfl
  | succ m ih => cases l <;> exact ih _

/-- Placing a command changes no other command of the program text. -/
theorem placeCommand_getElem?_ne {l : List Command} {m j : Nat} (k : Command) (hj : j < l.length) (hne : j ≠ m) :
    (placeCommand l m k)[j]? = l[j]? := by
  induction m generalizing l j with
  | zero =>
    obtain ⟨j, rfl⟩ := Nat.exists_eq_succ_of_ne_zero hne
    cases l with
    | nil => nomatch hj
    | cons => rfl
  | succ m ih =>
    cases l with
    | nil => nomatch hj
    | cons _ l =>
      cases j with
      | zero => rfl
      | succ j => exact ih (Nat.lt_of_succ_lt_succ hj) (mt (congrArg Nat.succ) hne)

end Sys2Proof.Machine

namespace Sys2Proof

open Machine

/-! ### The statements about single instructions -/

/-- Settles O22: the byte in the slot after the tail is the one CONSUME takes. -/
theorem rxReadReturnsNextByte : Obligations.RxReadReturnsNextByte := by
  unfold Obligations.RxReadReturnsNextByte
  exact fun s b hne hread => exec_rxRead_of_front hne hread

/-- Settles O23: the sample in the slot after the tail is the one CONSUME takes. -/
theorem adcReadReturnsNextSample : Obligations.AdcReadReturnsNextSample := by
  unfold Obligations.AdcReadReturnsNextSample
  exact fun s d hne hread => exec_adcRead_of_front hne hread

/-- Settles O24: each blocked command gives its own state back, so the step that tries it only takes its turn. -/
theorem foregroundHoldsWhileBlocked : Obligations.ForegroundHoldsWhileBlocked := by
  unfold Obligations.ForegroundHoldsWhileBlocked
  refine fun s => ⟨exec_rxRead_of_empty, exec_adcRead_of_empty, fun d => exec_txWrite_of_full, fun k i hturn hk hd hheld => ?_⟩
  rw [step_of_fg hturn hk hd]
  exact exec_of_not_isEnabled (decode_port hd) ((isEnabled_popTurn i s).trans hheld)

/-- Settles O25: the three commands return `boolResult` of their own buffer's emptiness. -/
theorem emptyCommandsReturnEmptiness : Obligations.EmptyCommandsReturnEmptiness := by
  unfold Obligations.EmptyCommandsReturnEmptiness
  intro s
  simp only [← boolResult_isEmpty]
  exact ⟨rfl, rfl, rfl⟩

/-- Settles O26: the write finds room, produces and arms. -/
theorem txWriteProducesAndArms : Obligations.TxWriteProducesAndArms := by
  unfold Obligations.TxWriteProducesAndArms
  exact fun s d hroom => exec_txWrite_of_room hroom

/-- Settles O27: the receive handler is a PRODUCE without a condition. -/
theorem rxEvtProduces : Obligations.RxEvtProduces := by
  unfold Obligations.RxEvtProduces
  exact fun s d => rfl

/-- Settles O28: the requested handler sends what CONSUME takes, or disarms where CONSUME would hold. -/
theorem txEvtSendsOrDisarms : Obligations.TxEvtSendsOrDisarms := by
  unfold Obligations.TxEvtSendsOrDisarms
  intro s htxie htxe
  have hreq : s.irqTxReq = true := State.irqTxReq_iff.mpr ⟨htxie, htxe⟩
  exact ⟨fun b hne hread => exec_txEvt_of_front hreq hne hread, exec_txEvt_of_empty hreq⟩

/-- Settles O29: the enabled event sets the one register. -/
theorem txTxeSetsRegisterEmpty : Obligations.TxTxeSetsRegisterEmpty := by
  unfold Obligations.TxTxeSetsRegisterEmpty
  exact fun s htxe => exec_txTxe_of_not_txe htxe

/-- Settles O30: the command has no condition. -/
theorem adcStartRequestsConversion : Obligations.AdcStartRequestsConversion := by
  unfold Obligations.AdcStartRequestsConversion
  exact fun s => rfl

/-- Settles O31: the handler of a conversion in flight produces, and clears the request. -/
theorem adcEvtDeliversResult : Obligations.AdcEvtDeliversResult := by
  unfold Obligations.AdcEvtDeliversResult
  exact fun s d hstart => exec_adcEvt_of_adcStart hstart

/-- Settles O32: the command returns `statusResult` of the status. -/
theorem adcStatusReturnsStatus : Obligations.AdcStatusReturnsStatus := by
  unfold Obligations.AdcStatusReturnsStatus
  intro s
  rw [← statusResult_eq]
  rfl

/-- Settles O45: the reset turn gives `State.resetBlock`, whose buffers are empty and whose enables are off. -/
theorem stateAfterReset : Obligations.StateAfterReset := by
  unfold Obligations.StateAfterReset
  intro s t h
  cases h
  refine ⟨rfl, fun i hi => ?_, rfl, rfl, rfl, rfl, fun d => ⟨rfl, _, rfl⟩⟩
  simp only [List.mem_cons, List.not_mem_nil, or_false] at hi
  obtain rfl | rfl | rfl := hi
  · exact ⟨_, rfl, rfl⟩
  · exact ⟨_, rfl, rfl⟩
  · exact ⟨_, rfl, rfl⟩

/-! ### The statements about the step -/

/-- Settles O46: the turn is the schedule's first or a free one, and the decoder's instruction runs on the rest of the state. -/
theorem stepRunsDecodedInstruction : Obligations.StepRunsDecodedInstruction := by
  unfold Obligations.StepRunsDecodedInstruction
  refine fun s => ⟨fun l k i hl hk hd => ?fg, fun l k i hl hd => ?event, fun l hl => ?reset, fun hl => ?free⟩
  case fg => rw [step_of_fg (s.nextTurn_of_cons hl) hk hd, s.popTurn_of_cons hl]
  case event => rw [step_of_event (s.nextTurn_of_cons hl) hd, s.popTurn_of_cons hl]
  case reset => rw [step, s.nextTurn_of_cons hl, s.popTurn_of_cons hl, stepTurn]
  case free => rw [step, s.nextTurn_of_nil hl, s.popTurn_of_nil hl]

/-- Settles O57: placing puts the instruction's own words where the next turn reads them, and they decode under the state's W_ADC
because the instruction is well formed there. -/
theorem placedWordRunsNext : Obligations.PlacedWordRunsNext := by
  unfold Obligations.PlacedWordRunsNext
  intro s nbits w i htable hwf
  have hd : decode i.port s.config.wADC (encode i) = .instr i := decode_encode hwf
  rw [withFetchWord_eq_place htable]
  refine ⟨fun hport => ⟨?runs, placeCommand_getElem?_self _ _ _, fun k hk hne => placeCommand_getElem?_ne _ hk hne⟩,
    fun hport => ?event⟩
  case runs =>
    rw [hport] at hd ⊢
    exact step_of_fg (s := s.place .fg (encode i)) rfl (placeCommand_getElem?_self _ _ _) hd
  case event =>
    rw [hport] at hd ⊢
    exact step_of_event (s := s.place .event (encode i)) rfl hd

end Sys2Proof
end


section
/-!
PROOF. What commands, events and turns leave unchanged (spec/00_scope.md R10; spec/10_state.md R25; spec/20_memory.md R55): the frames of
reads, reports, producers and control events, the program index, the sampling status, and the end of a run.
-/
namespace Sys2Proof.Machine

variable {i : Instr} {s t : State} {u : Turn} {p : Port} {k : Command}

/-! ### Reports -/

/-- A report returns one word, which depends on neither fg_out nor fpc, and completes (R55). -/
theorem exec_report (hi : i ∈ [Instr.rxEmpty, .txEmpty, .adcEmpty, .adcStatus]) (s : State) :
    ∃ v, ∀ out m, exec i { s with fgOut := out, fpc := m } = .next { s with fgOut := out ++ [v], fpc := m + 1 } := by
  simp only [List.mem_cons, List.not_mem_nil, or_false] at hi
  obtain rfl | rfl | rfl | rfl := hi
  · exact ⟨boolResult s.rx.isEmpty, fun _ _ => rfl⟩
  · exact ⟨boolResult s.tx.isEmpty, fun _ _ => rfl⟩
  · exact ⟨boolResult s.adc.isEmpty, fun _ _ => rfl⟩
  · exact ⟨statusResult s.adcStatus, fun _ _ => rfl⟩

/-! ### The program text and the program index -/

/-- No instruction changes the program text; one adds to the program index exactly if it is a foreground command that does not hold
(R25). -/
theorem exec_program_fpc (h : exec i s = .next t) :
    t.program = s.program ∧ t.fpc = if i.port = .fg ∧ isEnabled i s = true then s.fpc + 1 else s.fpc := by
  cases i with
  | rxRead =>
    obtain ⟨hempty, rfl⟩ | ⟨b, hne, -, rfl⟩ := execRxRead_next h
    · simp [isEnabled, hempty]
    · simp [isEnabled, Instr.port, hne]
  | adcRead =>
    obtain ⟨hempty, rfl⟩ | ⟨d, hne, -, rfl⟩ := execAdcRead_next h
    · simp [isEnabled, hempty]
    · simp [isEnabled, Instr.port, hne]
  | txWrite d =>
    obtain ⟨hfull, rfl⟩ | ⟨hroom, rfl⟩ := execTxWrite_next h
    · simp [isEnabled, hfull]
    · simp [isEnabled, Instr.port, hroom]
  | txEvt => obtain ⟨-, -, ⟨-, rfl⟩ | ⟨b, -, -, rfl⟩⟩ := execTxEvt_next h <;> exact ⟨rfl, rfl⟩
  | txTxe => obtain ⟨-, rfl⟩ := execTxTxe_next h; exact ⟨rfl, rfl⟩
  | adcEvt d => obtain ⟨-, rfl⟩ := execAdcEvt_next h; exact ⟨rfl, rfl⟩
  | _ => cases h; exact ⟨rfl, rfl⟩

/-- A foreground's turn completes a command exactly if the foreground is enabled, and changes nothing where it is not (R14, R25). -/
theorem stepTurn_fg_cases (h : stepTurn .fg s = .next t) :
    (fgEnabled s = true ∧ t.fpc = s.fpc + 1) ∨ (fgEnabled s = false ∧ t = s) := by
  obtain ⟨p, k, i, hturn, hd, hexec⟩ | ⟨p, k, hturn, hd, rfl⟩ | ⟨-, hk, rfl⟩ | ⟨hreset, -⟩ := stepTurn_next h
  · obtain ⟨hevent, -⟩ | ⟨-, rfl, hk⟩ := hturn
    · nomatch hevent
    have hport := decode_port hd
    have hen : fgEnabled s = isEnabled i s := by simp [fgEnabled, hk, hd]
    rw [hen]
    cases hi : isEnabled i s with
    | true => exact .inl ⟨rfl, (exec_program_fpc hexec).2.trans (if_pos ⟨hport, hi⟩)⟩
    | false =>
      rw [exec_of_not_isEnabled hport hi] at hexec
      cases hexec
      exact .inr ⟨rfl, rfl⟩
  · obtain ⟨hevent, -⟩ | ⟨-, rfl, hk⟩ := hturn
    · nomatch hevent
    exact .inl ⟨by simp [fgEnabled, hk, hd], rfl⟩
  · exact .inr ⟨by simp [fgEnabled, hk], rfl⟩
  · nomatch hreset

theorem stepTurn_event_fpc (h : stepTurn (.event k) s = .next t) : t.fpc = s.fpc := by
  obtain ⟨i, hd, hexec⟩ | ⟨-, rfl⟩ := present_next (h : present .event k s = .next t)
  · exact (exec_program_fpc hexec).2.trans (if_neg (by simp [decode_port hd]))
  · rfl

/-- No turn changes the parameters or the program text (R10). -/
theorem stepTurn_config_program (h : stepTurn u s = .next t) : t.config = s.config ∧ t.program = s.program := by
  obtain ⟨p, k, i, -, -, hexec⟩ | ⟨p, k, -, -, rfl⟩ | ⟨-, -, rfl⟩ | ⟨-, rfl⟩ := stepTurn_next h
  · exact ⟨(exec_usesRings hexec).config, (exec_program_fpc hexec).1⟩
  · exact ⟨rfl, rfl⟩
  · exact ⟨rfl, rfl⟩
  · exact ⟨rfl, rfl⟩

/-! ### The sampling status -/

/-- Only ADC.START and ADC.EVT touch the sampling status or the start bit (R145). -/
theorem exec_status_cases (h : exec i s = .next t) :
    i = .adcStart ∨ (∃ d, i = .adcEvt d) ∨ (t.adcStatus = s.adcStatus ∧ t.adcStart = s.adcStart) := by
  cases i with
  | adcStart => exact .inl rfl
  | adcEvt d => exact .inr (.inl ⟨d, rfl⟩)
  | rxRead => obtain ⟨-, rfl⟩ | ⟨b, -, -, rfl⟩ := execRxRead_next h <;> exact .inr (.inr ⟨rfl, rfl⟩)
  | adcRead => obtain ⟨-, rfl⟩ | ⟨b, -, -, rfl⟩ := execAdcRead_next h <;> exact .inr (.inr ⟨rfl, rfl⟩)
  | txWrite d => obtain ⟨-, rfl⟩ | ⟨-, rfl⟩ := execTxWrite_next h <;> exact .inr (.inr ⟨rfl, rfl⟩)
  | txEvt => obtain ⟨-, -, ⟨-, rfl⟩ | ⟨b, -, -, rfl⟩⟩ := execTxEvt_next h <;> exact .inr (.inr ⟨rfl, rfl⟩)
  | txTxe => obtain ⟨-, rfl⟩ := execTxTxe_next h; exact .inr (.inr ⟨rfl, rfl⟩)
  | _ => cases h; exact .inr (.inr ⟨rfl, rfl⟩)

/-! ### The end of a run -/

/-- With its interrupt disabled the transmit buffer is empty (R128). -/
theorem State.Inv.tx_empty_of_not_txie (hinv : s.Inv) (htxie : s.txie = false) : s.tx.head = s.tx.tail :=
  of_not_not fun hne => Bool.eq_false_iff.mp htxie (hinv.armed hne)

/-- What a successful end of a run asks for (R207). -/
theorem endOfRun_iff : endOfRun s = true ↔
    s.fpc = s.program.length ∧ s.err = false ∧ s.txie = false ∧ s.txe = true ∧ s.adcStart = false := by
  simp [endOfRun, and_assoc]

end Sys2Proof.Machine

namespace Sys2Proof

open Machine

/-! ### The frames -/

/-- Settles O34: a read holds, or advances its tail, returns one word and completes. -/
theorem frameOfReads : Obligations.FrameOfReads := by
  unfold Obligations.FrameOfReads
  refine fun s t => ⟨fun h => ?rx, fun h => ?adc⟩
  case rx =>
    obtain ⟨-, rfl⟩ | ⟨b, -, -, rfl⟩ := execRxRead_next h
    · exact ⟨rfl, fun _ => rfl, fun _ => rfl, fun _ => rfl⟩
    · exact ⟨rfl, fun _ => rfl, fun _ => rfl, fun _ => rfl⟩
  case adc =>
    obtain ⟨-, rfl⟩ | ⟨d, -, -, rfl⟩ := execAdcRead_next h
    · exact ⟨rfl, fun _ => rfl, fun _ => rfl, fun _ => rfl⟩
    · exact ⟨rfl, fun _ => rfl, fun _ => rfl, fun _ => rfl⟩

/-- Settles O35: a report appends one word and completes. -/
theorem frameOfStateReports : Obligations.FrameOfStateReports := by
  unfold Obligations.FrameOfStateReports
  intro i s t hi h
  obtain ⟨v, hreport⟩ := exec_report hi s
  obtain rfl := Host.Outcome.next.inj (h.symm.trans (hreport s.fgOut s.fpc))
  exact ⟨rfl, fun _ => rfl, fun _ => rfl, fun _ => rfl⟩

/-- Settles O36: a producer writes the slot after its head and publishes it, and TX.WRITE may hold instead. -/
theorem frameOfProducers : Obligations.FrameOfProducers := by
  unfold Obligations.FrameOfProducers
  refine fun s t => ⟨fun d h => ?rx, fun d h => ?tx, fun d h => ?adc⟩
  case rx =>
    cases h
    exact ⟨rfl, fun a ha => Memory.read_write_other _ _ ha⟩
  case tx =>
    obtain ⟨-, rfl⟩ | ⟨-, rfl⟩ := execTxWrite_next h
    · exact ⟨rfl, fun _ _ => rfl⟩
    · exact ⟨rfl, fun a ha => Memory.read_write_other _ _ ha⟩
  case adc =>
    obtain ⟨-, rfl⟩ := execAdcEvt_next h
    exact ⟨rfl, fun a ha => Memory.read_write_other _ _ ha⟩

/-- Settles O37: TX.EVT disarms or sends, and the other two only set registers. -/
theorem frameOfControlEvents : Obligations.FrameOfControlEvents := by
  unfold Obligations.FrameOfControlEvents
  refine fun s t => ⟨fun h => ?evt, fun h => ?txe, fun h => ?start⟩
  case evt =>
    obtain ⟨-, -, ⟨-, rfl⟩ | ⟨b, -, -, rfl⟩⟩ := execTxEvt_next h
    · exact ⟨rfl, fun _ => rfl, fun _ => rfl, fun _ => rfl⟩
    · exact ⟨rfl, fun _ => rfl, fun _ => rfl, fun _ => rfl⟩
  case txe =>
    obtain ⟨-, rfl⟩ := execTxTxe_next h
    exact ⟨rfl, fun _ => rfl, fun _ => rfl, fun _ => rfl⟩
  case start =>
    obtain rfl := exec_adcStart_next h
    exact ⟨rfl, fun _ => rfl, fun _ => rfl, fun _ => rfl⟩

/-! ### What each turn keeps -/

/-- Settles O38: an event is on the other port, and a foreground's turn completes one command or is a hold. -/
theorem programIndexCountsCompletions : Obligations.ProgramIndexCountsCompletions := by
  unfold Obligations.ProgramIndexCountsCompletions
  refine fun s t => ⟨fun k => stepTurn_event_fpc, fun h => ?count, fun h hidle => ?idle⟩
  case count =>
    obtain ⟨hen, hfpc⟩ | ⟨hidle, rfl⟩ := stepTurn_fg_cases h
    · simpa [hen] using hfpc
    · simp [hidle]
  case idle =>
    obtain ⟨hen, -⟩ | ⟨-, ht⟩ := stepTurn_fg_cases h
    · simp [hidle] at hen
    · exact ht

/-- Settles O41: the two instructions that touch them set both. -/
theorem samplingStatusIsSeparateState : Obligations.SamplingStatusIsSeparateState := by
  unfold Obligations.SamplingStatusIsSeparateState
  intro i s t h hchanged
  obtain rfl | ⟨d, rfl⟩ | ⟨hstatus, hstart⟩ := exec_status_cases h
  · obtain rfl := exec_adcStart_next h
    exact .inl ⟨rfl, rfl, rfl⟩
  · obtain ⟨-, rfl⟩ := execAdcEvt_next h
    exact .inr ⟨⟨d, rfl⟩, rfl, rfl⟩
  · exact absurd hchanged (by simp [hstatus, hstart])

/-- Settles O43: no turn changes them, and taking a turn off the run's input does not either. -/
theorem configurationNeverChanges : Obligations.ConfigurationNeverChanges := by
  unfold Obligations.ConfigurationNeverChanges
  intro s t h
  simpa using stepTurn_config_program h

/-- Settles O52: with TXIE = 0 nothing is left in the transmit buffer, and the three other events are refused. -/
theorem onlyReceiveCanActAtTheEnd : Obligations.OnlyReceiveCanActAtTheEnd := by
  unfold Obligations.OnlyReceiveCanActAtTheEnd
  intro s hinv hend
  obtain ⟨hfpc, -, htxie, htxe, hstart⟩ := endOfRun_iff.mp hend
  have hempty : s.tx.head = s.tx.tail := hinv.tx_empty_of_not_txie htxie
  refine ⟨RingBuffer.isEmpty_iff.mpr hempty, List.getElem?_eq_none hfpc.ge, fun i t hport h => ?_⟩
  cases i with
  | rxEvt d => exact ⟨d, rfl⟩
  | txEvt => rw [exec_txEvt_refused htxie] at h; nomatch h
  | txTxe => rw [exec_txTxe_refused htxe] at h; nomatch h
  | adcEvt d => rw [exec_adcEvt_refused hstart] at h; nomatch h
  | _ => nomatch hport

/-- Settles O53: the word a report returns does not depend on what the first report changed. -/
theorem reportsAreIdempotent : Obligations.ReportsAreIdempotent := by
  unfold Obligations.ReportsAreIdempotent
  intro i s t x hi h h'
  obtain ⟨v, hreport⟩ := exec_report hi s
  obtain rfl := Host.Outcome.next.inj (h.symm.trans (hreport s.fgOut s.fpc))
  obtain rfl := Host.Outcome.next.inj (h'.symm.trans (hreport (s.fgOut ++ [v]) (s.fpc + 1)))
  exact ⟨v, rfl, List.append_assoc .., rfl⟩

end Sys2Proof
end


section
/-!
PROOF. The machine's invariant (spec/10_state.md; spec/40_ring_buffer.md R59, R98 to R101; spec/42_transmit.md R127, R128): it holds at
reset, every turn keeps it, no turn faults where it holds, and under it each turn moves the three queues by their own uses.
-/
namespace Sys2Proof.Machine

variable {n : Nat} {c : Capacity} {r r' : RingBuffer n} {ops : List (RingOp n)} {out out' : List (BitVec n)}
variable {i : Instr} {d : Sample} {s t : State} {u : Turn} {p : Port} {k : Command} {e : Fault}

/-! ### Histories and results -/

@[simp] theorem producedBy_append (a b : List (RingOp n)) : producedBy (a ++ b) = producedBy a ++ producedBy b := by
  induction a with
  | nil => rfl
  | cons op a ih => cases op <;> simp [producedBy, ih]

/-- A sample is among the results exactly if ADC.READ returned it (R76). -/
theorem mem_samplesOf {l : List ResultWord} : d ∈ samplesOf l ↔ .sample d ∈ l := by
  induction l with
  | nil => simp [samplesOf]
  | cons w l ih => cases w <;> simp [samplesOf, ih]

theorem rxOp_length_le_one (u : Turn) (s : State) : (rxOp u s).length ≤ 1 := by
  unfold rxOp
  split
  · exact rxOpOf_length_le_one _ s
  · exact Nat.zero_le 1

theorem adcOp_length_le_one (u : Turn) (s : State) : (adcOp u s).length ≤ 1 := by
  unfold adcOp
  split
  · exact adcOpOf_length_le_one _ s
  · exact Nat.zero_le 1

/-- A turn executes only what the decoder read, and that is well formed (R83). -/
theorem wellFormed_of_turnInstr (h : turnInstr u s = some i) : i.wellFormed s.config.wADC = true := by
  have hdecode : ∃ p k, decode p s.config.wADC k = .instr i := by
    cases u with
    | fg =>
      simp only [turnInstr] at h
      split at h
      next k _ =>
        split at h
        next j hd => cases h; exact ⟨_, k, hd⟩
        next => nomatch h
        next => nomatch h
      next => nomatch h
    | event k =>
      simp only [turnInstr] at h
      split at h
      next j hd => cases h; exact ⟨_, k, hd⟩
      next => nomatch h
      next => nomatch h
    | reset => nomatch h
  obtain ⟨p, k, hd⟩ := hdecode
  obtain ⟨-, -, hwf⟩ := decode_eq_instr_iff.mp hd
  exact hwf

/-- Only ADC.EVT produces a sample, and its operand fits W_ADC bits (R51, R75). -/
theorem fitsWidth_of_adcOp_eq_produce (h : adcOp u s = [.produce d]) : fitsWidth s.config.wADC.bits d = true := by
  unfold adcOp at h
  split at h
  next i hi =>
    cases i with
    | adcEvt => cases h; exact wellFormed_of_turnInstr hi
    | adcRead => simp only [adcOpOf] at h; split at h <;> cases h
    | _ => nomatch h
  next => nomatch h

/-! ### The invariant at reset -/

/-- The reset values meet the invariant with every program text and run's input (R38, R190). -/
theorem State.Inv.resetWith (cfg : Config) (prog : List Command) (turns : List Turn) (m : Nat) :
    State.Inv { State.resetWith cfg with program := prog, schedule := turns, draws := m } where
  rx := .reset 8 cfg.cRX
  tx := .reset 8 cfg.cTX
  adc := .reset 16 cfg.cADC
  adc_fits := nofun
  fg_fits := nofun
  armed hne := absurd rfl hne
  code := rfl
  fpc_le := Nat.zero_le _

theorem State.Inv.resetBlock (s : State) : s.resetBlock.Inv := .resetWith s.config s.program s.schedule s.draws

/-- The invariant says nothing of the run's input. -/
theorem State.Inv.popTurn (h : s.Inv) : s.popTurn.Inv := by
  obtain ⟨hrx, htx, hadc, hstored, hreturned, harmed, hcode, hfpc⟩ := h
  unfold State.popTurn
  split
  · exact ⟨hrx, htx, hadc, hstored, hreturned, harmed, hcode, hfpc⟩
  · exact ⟨hrx, htx, hadc, hstored, hreturned, harmed, hcode, hfpc⟩

/-! ### The invariant's fields over one turn -/

/-- No turn leaves a byte in the transmit buffer with the interrupt disabled (R128). -/
theorem stepTurn_armed (harmed : s.tx.head ≠ s.tx.tail → s.txie = true) (hu : u ≠ .reset) (h : stepTurn u s = .next t) :
    t.tx.head ≠ t.tx.tail → t.txie = true := by
  obtain ⟨d, -, hexec⟩ | ⟨-, hexec⟩ | ⟨htxie, htx⟩ := stepTurn_tx_cases hu h
  · obtain ⟨-, rfl⟩ | ⟨-, rfl⟩ := execTxWrite_next hexec
    · exact harmed
    · exact fun _ => rfl
  · obtain ⟨htxie, -, ⟨hempty, rfl⟩ | ⟨b, -, -, rfl⟩⟩ := execTxEvt_next hexec
    · exact fun hne => absurd hempty hne
    · exact fun _ => htxie
  · rwa [htx, htxie]

/-- ERRCODE is 0 before the first fault and 1 from then on (R161, R163). -/
theorem stepTurn_code (hcode : s.errcode = if s.err then 1 else 0) (hu : u ≠ .reset) (h : stepTurn u s = .next t) :
    t.errcode = if t.err then 1 else 0 := by
  obtain ⟨i, -, hexec⟩ | ⟨-, ⟨p, rfl⟩ | rfl⟩ := stepTurn_turnInstr hu h
  · obtain ⟨herr, herrcode⟩ := exec_fault_frame hexec
    rw [herr, herrcode, hcode]
  · cases herr : s.err <;> simp [State.raiseIllegal, herr, hcode]
  · exact hcode

/-- An enabled foreground has a command to issue. -/
theorem fpc_lt_of_fgEnabled (h : fgEnabled s = true) : s.fpc < s.program.length := by
  refine not_le.mp fun hle => ?_
  simp [fgEnabled, List.getElem?_eq_none hle] at h

/-- The program index never passes the program's end (R25). -/
theorem stepTurn_fpc_le (hle : s.fpc ≤ s.program.length) (hu : u ≠ .reset) (h : stepTurn u s = .next t) :
    t.fpc ≤ t.program.length := by
  obtain ⟨-, hprogram⟩ := stepTurn_config_program h
  rw [hprogram]
  cases u with
  | fg =>
    obtain ⟨hen, hfpc⟩ | ⟨-, rfl⟩ := stepTurn_fg_cases h
    · exact hfpc ▸ fpc_lt_of_fgEnabled hen
    · exact hle
  | event k => exact stepTurn_event_fpc h ▸ hle
  | reset => exact absurd rfl hu

/-- Every turn keeps the invariant. -/
theorem State.Inv.stepTurn (hinv : s.Inv) (h : Machine.stepTurn u s = .next t) : t.Inv := by
  obtain rfl | hu := eq_or_ne u .reset
  · cases h; exact .resetBlock s
  obtain ⟨hconfig, hrx, htx, hadc⟩ := stepTurn_usesRings hu h
  obtain ⟨hstored, hreturned⟩ := hadc.forall_elements (P := fun d => fitsWidth s.config.wADC.bits d = true)
    (adcOp_length_le_one u s) hinv.adc_fits (fun d hd => hinv.fg_fits d (mem_samplesOf.mp hd))
    (fun d hd => fitsWidth_of_adcOp_eq_produce hd)
  exact {
    rx := hconfig ▸ hrx.inv (rxOp_length_le_one u s) hinv.rx
    tx := hconfig ▸ htx.inv (txOp_length_le_one u s) hinv.tx
    adc := hconfig ▸ hadc.inv (adcOp_length_le_one u s) hinv.adc
    adc_fits := hconfig ▸ hstored
    fg_fits := fun d hd => hconfig ▸ hreturned d (mem_samplesOf.mpr hd)
    armed := stepTurn_armed hinv.armed hu h
    code := stepTurn_code hinv.code hu h
    fpc_le := stepTurn_fpc_le hinv.fpc_le hu h }

/-! ### No stop from a state that meets the invariant -/

/-- What is enabled gives a next state, since every pending slot was written (R100). -/
theorem State.Inv.exec_of_isEnabled (hinv : s.Inv) (hen : isEnabled i s = true) : ∃ t, exec i s = .next t := by
  cases i with
  | rxRead =>
    have hne : s.rx.head ≠ s.rx.tail := by simpa [isEnabled, RingBuffer.isEmpty] using hen
    obtain ⟨b, hfront⟩ := hinv.rx.exists_front hne
    exact ⟨_, exec_rxRead_of_front hne hfront⟩
  | adcRead =>
    have hne : s.adc.head ≠ s.adc.tail := by simpa [isEnabled, RingBuffer.isEmpty] using hen
    obtain ⟨d, hfront⟩ := hinv.adc.exists_front hne
    exact ⟨_, exec_adcRead_of_front hne hfront⟩
  | txWrite d => exact ⟨_, exec_txWrite_of_room (by simpa [isEnabled, RingBuffer.isFull] using hen)⟩
  | txEvt =>
    by_cases hempty : s.tx.head = s.tx.tail
    · exact ⟨_, exec_txEvt_of_empty hen hempty⟩
    · obtain ⟨b, hfront⟩ := hinv.tx.exists_front hempty
      exact ⟨_, exec_txEvt_of_front hen hempty hfront⟩
  | txTxe => exact ⟨_, exec_txTxe_of_not_txe (by simpa [isEnabled] using hen)⟩
  | adcEvt d => exact ⟨_, exec_adcEvt_of_adcStart hen⟩
  | _ => exact ⟨_, rfl⟩

/-- A foreground command gives a next state, enabled or held. -/
theorem State.Inv.exec_of_fg (hinv : s.Inv) (hport : i.port = .fg) : ∃ t, exec i s = .next t := by
  cases hen : isEnabled i s with
  | true => exact hinv.exec_of_isEnabled hen
  | false => exact ⟨s, exec_of_not_isEnabled hport hen⟩

/-- An event that is not enabled is refused (R167). -/
theorem exec_refused_of_not_isEnabled (hport : i.port = .event) (h : isEnabled i s = false) : ∃ e, exec i s = .refused e := by
  cases i with
  | rxEvt d => nomatch h
  | txEvt => exact ⟨_, exec_txEvt_refused_of_not_requested h⟩
  | txTxe => exact ⟨_, exec_txTxe_refused (by simpa [isEnabled] using h)⟩
  | adcEvt d => exact ⟨_, exec_adcEvt_refused h⟩
  | _ => nomatch hport

theorem State.Inv.exec_ne_fault (hinv : s.Inv) : exec i s ≠ .fault e := by
  cases hport : i.port with
  | fg =>
    obtain ⟨t, ht⟩ := hinv.exec_of_fg hport
    simp [ht]
  | event =>
    cases hen : isEnabled i s with
    | true =>
      obtain ⟨t, ht⟩ := hinv.exec_of_isEnabled hen
      simp [ht]
    | false =>
      obtain ⟨e, he⟩ := exec_refused_of_not_isEnabled hport hen
      simp [he]

theorem State.Inv.present_ne_fault (hinv : s.Inv) : present p k s ≠ .fault e := by
  unfold present
  split
  · exact hinv.exec_ne_fault
  · nofun
  · nofun

theorem State.Inv.stepTurn_ne_fault (hinv : s.Inv) : Machine.stepTurn u s ≠ .fault e := by
  cases u with
  | fg =>
    simp only [Machine.stepTurn, stepForeground]
    split
    · exact hinv.present_ne_fault
    · nofun
  | event k => exact hinv.present_ne_fault
  | reset => nofun

/-! ### The bytes sent and still buffered -/

/-- A use that does not overflow appends what it produces to what was delivered and is still pending (R98). -/
theorem RingBuffer.Uses.delivered_append_contents (h : r.Uses c ops r' out out') (hone : ops.length ≤ 1) (hinv : r.Inv c)
    (hroom : ∀ v, ops = [.produce v] → r.isFull c = false) :
    out' ++ r'.contents c = out ++ r.contents c ++ producedBy ops := by
  obtain ⟨rfl, rfl, rfl⟩ | ⟨v, rfl, rfl, rfl⟩ | ⟨v, rfl, hc, rfl⟩ := h.cases hone
  · simp [producedBy]
  · simp [producedBy, RingBuffer.contents_produce hinv.head_lt hinv.tail_lt (hroom v rfl)]
  · obtain ⟨hne, hfront, rfl⟩ := RingBuffer.consume_took.mp hc
    simp [producedBy, RingBuffer.contents_advance hinv.head_lt hinv.tail_lt hne hfront]

/-- The transmit buffer never overflows, so each turn keeps every byte, in order (R127). -/
theorem State.Inv.sent_append_contents (hinv : s.Inv) (hu : u ≠ .reset) (h : Machine.stepTurn u s = .next t) :
    t.txOut ++ t.tx.contents s.config.cTX = s.txOut ++ s.tx.contents s.config.cTX ++ producedBy (txOp u s) :=
  (stepTurn_usesRings hu h).tx.delivered_append_contents (txOp_length_le_one u s) hinv.tx
    fun _ hop => isFull_eq_false_of_txOp_eq_produce hop

/-- The same along a run without reset. -/
theorem State.Inv.sent_append_contents_of_runTurns {turns : List Turn} (hinv : s.Inv) (hreset : Turn.reset ∉ turns)
    (h : runTurns s turns = .next t) :
    t.txOut ++ t.tx.contents t.config.cTX =
      s.txOut ++ s.tx.contents s.config.cTX ++ producedBy (historyOf txOp s turns) := by
  induction turns generalizing s with
  | nil => cases h; simp [historyOf, producedBy]
  | cons u turns ih =>
    rw [List.mem_cons, not_or] at hreset
    obtain ⟨hu, hturns⟩ := hreset
    obtain ⟨x, hstep, hrun⟩ := runTurns_cons_eq_next_iff.mp h
    obtain ⟨hconfig, -⟩ := stepTurn_config_program hstep
    rw [ih (hinv.stepTurn hstep) hturns hrun, hconfig, hinv.sent_append_contents (Ne.symm hu) hstep,
      historyOf_cons_of_next hstep, producedBy_append, List.append_assoc]

/-! ### A ring buffer after reset as a queue -/

@[simp] theorem RingBuffer.contents_reset (n : Nat) (c : Capacity) : (RingBuffer.reset n).contents c = [] :=
  RingBuffer.contents_eq_nil_of_pend (RingBuffer.pend_reset n c)

end Sys2Proof.Machine

namespace Sys2Proof

open Machine

/-! ### The statements about the invariant -/

/-- Settles O16: reset and boot build the reset values with some program text and run's input. -/
theorem invariantHoldsAtReset : Obligations.InvariantHoldsAtReset := by
  unfold Obligations.InvariantHoldsAtReset
  exact ⟨.resetWith .standard [] [] 0, fun cfg prog turns => .resetWith cfg prog turns 0⟩

/-- Settles O17: each channel's ring buffer keeps its invariant over its own use, and each of the other fields is kept over every
turn. -/
theorem stepKeepsInvariant : Obligations.StepKeepsInvariant := by
  unfold Obligations.StepKeepsInvariant
  exact fun s t hinv h => hinv.popTurn.stepTurn h

/-- Settles O18: a command completes or holds and an enabled event occurs, and neither touches ERR or ERRCODE. -/
theorem legalCommandsNeverStop : Obligations.LegalCommandsNeverStop := by
  unfold Obligations.LegalCommandsNeverStop
  intro i s hinv hlegal
  obtain ⟨t, ht⟩ : ∃ t, exec i s = .next t := hlegal.elim hinv.exec_of_fg hinv.exec_of_isEnabled
  exact ⟨t, ht, exec_fault_frame ht⟩

/-- Settles O19: the invariant holds of the state with its turn taken off, and from there no turn faults. -/
theorem stepNeverFaults : Obligations.StepNeverFaults := by
  unfold Obligations.StepNeverFaults
  exact fun s hinv e => hinv.popTurn.stepTurn_ne_fault

/-! ### The statements about histories and queues -/

/-- Settles O58: a turn uses each ring buffer at most once, and a use keeps the laws. -/
theorem stepKeepsSlotLaw : Obligations.StepKeepsSlotLaw := by
  unfold Obligations.StepKeepsSlotLaw
  refine fun u s t h => ⟨fun hreset => ?reset, fun hu => ?turn⟩
  case reset =>
    subst hreset
    cases h
    exact ⟨.reset 8 _, .reset 8 _, .reset 16 _⟩
  case turn =>
    obtain ⟨-, hrx, htx, hadc⟩ := stepTurn_usesRings hu h
    exact ⟨hrx.keepsSlotLaw (rxOp_length_le_one u s), htx.keepsSlotLaw (txOp_length_le_one u s),
      hadc.keepsSlotLaw (adcOp_length_le_one u s)⟩

/-- Settles O59: a turn uses each ring buffer at most once, a use moves the queue, and TX produces only where it finds room. -/
theorem stepMovesQueues : Obligations.StepMovesQueues := by
  unfold Obligations.StepMovesQueues
  refine fun u s t hinv h => ⟨fun hreset => ?reset, fun hu => ?turn⟩
  case reset =>
    subst hreset
    cases h
    exact ⟨RingBuffer.contents_reset 8 _, RingBuffer.contents_reset 8 _, RingBuffer.contents_reset 16 _⟩
  case turn =>
    obtain ⟨-, hrx, htx, hadc⟩ := stepTurn_usesRings hu h
    exact ⟨hrx.movesQueue (rxOp_length_le_one u s) hinv.rx, htx.movesQueue (txOp_length_le_one u s) hinv.tx,
      hadc.movesQueue (adcOp_length_le_one u s) hinv.adc, fun v hop => isFull_eq_false_of_txOp_eq_produce hop,
      hinv.sent_append_contents hu h⟩

/-- Settles O15: each turn of the run uses each ring buffer as its part of the history says. -/
theorem runsFollowRingHistories : Obligations.RunsFollowRingHistories := by
  unfold Obligations.RunsFollowRingHistories
  intro s t turns hreset hrun
  obtain ⟨-, hrx, htx, hadc⟩ := runTurns_usesRings hreset hrun
  exact ⟨hrx, htx, hadc⟩

/-- Settles O20: no turn of the run overflows the transmit buffer, so each appends what it writes to what is sent and buffered. -/
theorem transmitNeverOverflows : Obligations.TransmitNeverOverflows := by
  unfold Obligations.TransmitNeverOverflows
  exact fun s t turns hinv hreset hrun => ⟨neverOverflows_historyOf_txOp hinv.tx.head_lt hinv.tx.tail_lt hreset hrun,
    hinv.sent_append_contents_of_runTurns hreset hrun⟩

end Sys2Proof
end


section
/-!
PROOF. The channels share no ring state (spec/10_state.md R23; spec/60_exceptions.md R173): an instruction carries another channel's ring
buffer through unread, and events of different channels commute.
-/
namespace Sys2Proof.Machine

open Host (Outcome)

variable {i j : Instr} {s a b : State} {f : State → State} {d : Byte} {x : Sample}

/-! ### What an instruction does not depend on -/

/-- `f` changes nothing that the instruction reads or writes: from `f s` it does what it does from `s`, with `f` applied after it. -/
def Carries (i : Instr) (f : State → State) : Prop := ∀ s, exec i (f s) = mapNext f (exec i s)

theorem Carries.next (h : Carries i f) (ha : exec i s = .next a) : exec i (f s) = .next (f a) := by
  rw [h s, ha, mapNext]

/-! Each instruction that can hold or stop reads its own ring buffer, its capacity and its enable, so these are what `f` must keep. -/

theorem carries_rxRead (hrx : ∀ s, (f s).rx = s.rx) (hconfig : ∀ s, (f s).config = s.config)
    (hdone : ∀ s r v, (((f s).setRx r).emitFg v).completeFg = f ((s.setRx r).emitFg v).completeFg) : Carries .rxRead f := by
  intro s
  simp only [exec, execRxRead, hrx, hconfig]
  cases s.rx.consume s.config.cRX with
  | took v r => exact congrArg Outcome.next (hdone s r _)
  | _ => rfl

theorem carries_adcRead (hadc : ∀ s, (f s).adc = s.adc) (hconfig : ∀ s, (f s).config = s.config)
    (hdone : ∀ s r v, (((f s).setAdc r).emitFg v).completeFg = f ((s.setAdc r).emitFg v).completeFg) : Carries .adcRead f := by
  intro s
  simp only [exec, execAdcRead, hadc, hconfig]
  cases s.adc.consume s.config.cADC with
  | took v r => exact congrArg Outcome.next (hdone s r _)
  | _ => rfl

theorem carries_txWrite (htx : ∀ s, (f s).tx = s.tx) (hconfig : ∀ s, (f s).config = s.config)
    (hdone : ∀ s r, (((f s).setTx r).setTxie true).completeFg = f ((s.setTx r).setTxie true).completeFg) :
    Carries (.txWrite d) f := by
  intro s
  simp only [exec, execTxWrite, htx, hconfig]
  cases s.tx.isFull s.config.cTX with
  | true => rfl
  | false => exact congrArg Outcome.next (hdone s _)

theorem carries_txEvt (htx : ∀ s, (f s).tx = s.tx) (hconfig : ∀ s, (f s).config = s.config)
    (hreq : ∀ s, (f s).irqTxReq = s.irqTxReq) (hdisarmed : ∀ s, (f s).setTxie false = f (s.setTxie false))
    (hsent : ∀ s r v, (((f s).setTx r).emitTx v).setTxe false = f (((s.setTx r).emitTx v).setTxe false)) : Carries .txEvt f := by
  intro s
  simp only [exec, execTxEvt, htx, hconfig, hreq]
  cases s.irqTxReq with
  | false => rfl
  | true =>
    cases s.tx.consume s.config.cTX with
    | held => exact congrArg Outcome.next (hdisarmed s)
    | unwritten => rfl
    | took v r => exact congrArg Outcome.next (hsent s r v)

theorem carries_txTxe (htxe : ∀ s, (f s).txe = s.txe) (hset : ∀ s, (f s).setTxe true = f (s.setTxe true)) :
    Carries .txTxe f := by
  intro s
  simp only [exec, execTxTxe, htxe]
  cases s.txe with
  | true => rfl
  | false => exact congrArg Outcome.next (hset s)

theorem carries_adcEvt (hadc : ∀ s, (f s).adc = s.adc) (hconfig : ∀ s, (f s).config = s.config)
    (hstart : ∀ s, (f s).adcInflight = s.adcInflight)
    (hdone : ∀ s r, (((f s).setAdc r).setAdcStatus .ready).setAdcStart false =
      f (((s.setAdc r).setAdcStatus .ready).setAdcStart false)) : Carries (.adcEvt x) f := by
  intro s
  simp only [exec, execAdcEvt, hadc, hconfig, hstart]
  cases s.adcInflight with
  | true => exact congrArg Outcome.next (hdone s _)
  | false => rfl

/-! ### Another channel's ring buffer -/

theorem carries_setRx (r : RingBuffer 8) (hch : i.channel ≠ .rx) : Carries i (fun s => s.setRx r) := by
  cases i with
  | rxRead | rxEmpty | rxEvt => exact absurd rfl hch
  | txWrite d => exact carries_txWrite (fun _ => rfl) (fun _ => rfl) (fun _ _ => rfl)
  | txEvt => exact carries_txEvt (fun _ => rfl) (fun _ => rfl) (fun _ => rfl) (fun _ => rfl) (fun _ _ _ => rfl)
  | txTxe => exact carries_txTxe (fun _ => rfl) (fun _ => rfl)
  | adcRead => exact carries_adcRead (fun _ => rfl) (fun _ => rfl) (fun _ _ _ => rfl)
  | adcEvt x => exact carries_adcEvt (fun _ => rfl) (fun _ => rfl) (fun _ => rfl) (fun _ _ => rfl)
  | txEmpty | adcEmpty | adcStart | adcStatus => exact fun _ => rfl

theorem carries_setTx (r : RingBuffer 8) (hch : i.channel ≠ .tx) : Carries i (fun s => s.setTx r) := by
  cases i with
  | txWrite | txEmpty | txEvt | txTxe => exact absurd rfl hch
  | rxRead => exact carries_rxRead (fun _ => rfl) (fun _ => rfl) (fun _ _ _ => rfl)
  | adcRead => exact carries_adcRead (fun _ => rfl) (fun _ => rfl) (fun _ _ _ => rfl)
  | adcEvt x => exact carries_adcEvt (fun _ => rfl) (fun _ => rfl) (fun _ => rfl) (fun _ _ => rfl)
  | rxEmpty | rxEvt | adcEmpty | adcStart | adcStatus => exact fun _ => rfl

theorem carries_setAdc (r : RingBuffer 16) (hch : i.channel ≠ .adc) : Carries i (fun s => s.setAdc r) := by
  cases i with
  | adcRead | adcEmpty | adcStart | adcStatus | adcEvt => exact absurd rfl hch
  | rxRead => exact carries_rxRead (fun _ => rfl) (fun _ => rfl) (fun _ _ _ => rfl)
  | txWrite d => exact carries_txWrite (fun _ => rfl) (fun _ => rfl) (fun _ _ => rfl)
  | txEvt => exact carries_txEvt (fun _ => rfl) (fun _ => rfl) (fun _ => rfl) (fun _ => rfl) (fun _ _ _ => rfl)
  | txTxe => exact carries_txTxe (fun _ => rfl) (fun _ => rfl)
  | rxEmpty | rxEvt | txEmpty => exact fun _ => rfl

/-- Carrying through the ring buffer the state has changes nothing. -/
theorem rx_eq_of_exec (hch : i.channel ≠ .rx) (h : exec i s = .next a) : a.rx = s.rx := by
  have hcarry : exec i s = .next (a.setRx s.rx) := (carries_setRx s.rx hch).next h
  have ha : a = a.setRx s.rx := Outcome.next.inj (h.symm.trans hcarry)
  exact (congrArg State.rx ha :)

/-! ### Events of different channels -/

/-- The two events may be taken in either order, with the same state after both (R173). -/
def Commute (i j : Instr) : Prop :=
  ∀ s a b, exec i s = .next a → exec j s = .next b → ∃ t, exec j a = .next t ∧ exec i b = .next t

theorem Commute.symm (h : Commute i j) : Commute j i := by
  intro s a b ha hb
  obtain ⟨t, hi, hj⟩ := h s b a hb ha
  exact ⟨t, hj, hi⟩

/-- RX.EVT only puts a ring buffer in place, which no instruction of another channel reads or writes. -/
theorem commute_rxEvt (hch : j.channel ≠ .rx) : Commute (.rxEvt d) j := by
  intro s a b ha hb
  cases ha
  refine ⟨_, (carries_setRx _ hch).next hb, ?_⟩
  rw [← rx_eq_of_exec hch hb, ← (exec_usesRings hb).config]
  rfl

/-- ADC.EVT also clears a request, which no event of the Transmit Channel reads or writes. -/
theorem commute_adcEvt (hch : j.channel = .tx) (hport : j.port = .event) : Commute (.adcEvt x) j := by
  intro s a b ha hb
  obtain ⟨hstart, rfl⟩ := execAdcEvt_next ha
  cases j with
  | txEvt =>
    obtain ⟨htxie, htxe, ⟨hempty, rfl⟩ | ⟨v, hne, hfront, rfl⟩⟩ := execTxEvt_next hb
    · exact ⟨_, exec_txEvt_of_empty (State.irqTxReq_iff.mpr ⟨htxie, htxe⟩) hempty, exec_adcEvt_of_adcStart hstart⟩
    · exact ⟨_, exec_txEvt_of_front (State.irqTxReq_iff.mpr ⟨htxie, htxe⟩) hne hfront, exec_adcEvt_of_adcStart hstart⟩
  | txTxe =>
    obtain ⟨htxe, rfl⟩ := execTxTxe_next hb
    exact ⟨_, exec_txTxe_of_not_txe htxe, exec_adcEvt_of_adcStart hstart⟩
  | txEmpty | txWrite => nomatch hport
  | _ => nomatch hch

/-- Events of different channels: one of them is RX.EVT, or they are ADC.EVT and an event of the Transmit Channel. -/
theorem commute_of_channel_ne (hi : i.port = .event) (hj : j.port = .event) (hch : i.channel ≠ j.channel) : Commute i j := by
  cases i with
  | rxEvt d => exact commute_rxEvt hch.symm
  | txEvt | txTxe =>
    cases j with
    | rxEvt d => exact (commute_rxEvt hch).symm
    | adcEvt x => exact (commute_adcEvt rfl rfl).symm
    | txEvt | txTxe => exact absurd rfl hch
    | _ => nomatch hj
  | adcEvt x =>
    cases j with
    | rxEvt d => exact (commute_rxEvt hch).symm
    | txEvt | txTxe => exact commute_adcEvt rfl rfl
    | adcEvt => exact absurd rfl hch
    | _ => nomatch hj
  | _ => nomatch hi

end Sys2Proof.Machine

namespace Sys2Proof

open Machine

/-- Settles O47: an instruction of another channel does not depend on the ring buffer. -/
theorem channelsShareNoRingState : Obligations.ChannelsShareNoRingState := by
  unfold Obligations.ChannelsShareNoRingState
  exact fun i s => ⟨fun r hch => carries_setRx r hch s, fun r hch => carries_setTx r hch s, fun r hch => carries_setAdc r hch s⟩

/-- Settles O48: what RX.EVT and ADC.EVT change, the other channel's event neither reads nor writes. -/
theorem eventsOfDifferentChannelsCommute : Obligations.EventsOfDifferentChannelsCommute := by
  unfold Obligations.EventsOfDifferentChannelsCommute
  exact fun i j s a b hi hj hch => commute_of_channel_ne hi hj hch s a b

end Sys2Proof
end


section
/-!
PROOF. The transmitter's progress (spec/42_transmit.md section 3; spec/70_reset_and_hazards.md R206): while TXIE stays 1, a measure of the
work left never grows and falls at every TX.EVT and TX.TXE. Fairness takes one of the two again and again, so TXIE returns to 0.
-/
namespace Sys2Proof.Machine

variable {i : Instr} {s t : State} {u : Turn} {turns : Nat → Turn} {σ : Nat → State} {n m : Nat}

/-! ### A measure of the work left -/

/-- The work left while the interrupt is enabled. A byte to send takes a TX.EVT and a TX.TXE, and a register in use a TX.TXE; a command
left in the program text may write one more byte. -/
def drainMeasure (s : State) : Nat :=
  2 * s.tx.pend s.config.cTX + (!s.txe).toNat + 2 * (s.program.length - s.fpc)

/-- Completing commands that touch neither the transmit buffer nor its register leaves no more work. -/
theorem drainMeasure_le (hconfig : t.config = s.config) (hprogram : t.program = s.program) (htx : t.tx = s.tx)
    (htxe : t.txe = s.txe) (hfpc : s.fpc ≤ t.fpc) : drainMeasure t ≤ drainMeasure s := by
  simp only [drainMeasure, hconfig, hprogram, htx, htxe]
  omega

/-- A write that completes uses up a command for its byte. -/
theorem drainMeasure_txWrite {d : Byte} (hinv : s.Inv) (hfpc : s.fpc + 1 ≤ s.program.length) :
    drainMeasure (((s.setTx (s.tx.produce s.config.cTX d)).setTxie true).completeFg) ≤ drainMeasure s := by
  have hpend : (s.tx.produce s.config.cTX d).pend s.config.cTX ≤ s.tx.pend s.config.cTX + 1 := by
    rw [RingBuffer.pend_produce hinv.tx.head_lt hinv.tx.tail_lt]
    exact Nat.mod_le _ _
  simp [drainMeasure]
  omega

/-- A byte sent is one byte less, with the register in use. -/
theorem drainMeasure_txEvt {b : Byte} (hinv : s.Inv) (hne : s.tx.head ≠ s.tx.tail) (htxe : s.txe = true) :
    drainMeasure (((s.setTx (s.tx.advance s.config.cTX)).emitTx b).setTxe false) < drainMeasure s := by
  obtain ⟨hpos, hpend⟩ := RingBuffer.pend_advance hinv.tx.head_lt hinv.tx.tail_lt hne
  simp [drainMeasure, hpend, htxe]
  omega

/-- The register becomes empty. -/
theorem drainMeasure_txTxe (htxe : s.txe = false) : drainMeasure (s.setTxe true) < drainMeasure s := by
  simp [drainMeasure, htxe]

/-- Only TX.EVT and TX.TXE touch TXE. -/
theorem exec_txe_cases (h : exec i s = .next t) : i = .txEvt ∨ i = .txTxe ∨ t.txe = s.txe := by
  cases i with
  | txEvt => exact .inl rfl
  | txTxe => exact .inr (.inl rfl)
  | txWrite d => obtain ⟨-, rfl⟩ | ⟨-, rfl⟩ := execTxWrite_next h <;> exact .inr (.inr rfl)
  | rxRead => obtain ⟨-, rfl⟩ | ⟨b, -, -, rfl⟩ := execRxRead_next h <;> exact .inr (.inr rfl)
  | adcRead => obtain ⟨-, rfl⟩ | ⟨b, -, -, rfl⟩ := execAdcRead_next h <;> exact .inr (.inr rfl)
  | adcEvt b => obtain ⟨-, rfl⟩ := execAdcEvt_next h; exact .inr (.inr rfl)
  | _ => cases h; exact .inr (.inr rfl)

/-- A turn that makes no progress: it leaves TXE, is neither of the two events that fairness asks for, and leaves no more work. -/
structure Quiet (u : Turn) (s t : State) : Prop where
  txe : t.txe = s.txe
  not_txEvt : turnInstr u s ≠ some .txEvt
  not_txTxe : turnInstr u s ≠ some .txTxe
  work_le : drainMeasure t ≤ drainMeasure s

/-- An instruction that touches neither the transmit buffer nor its register makes no progress. -/
theorem Quiet.of_exec (hi : turnInstr u s = some i) (hexec : exec i s = .next t) (hevt : i ≠ .txEvt) (htxTxe : i ≠ .txTxe)
    (htx : t.tx = s.tx) : Quiet u s t := by
  obtain ⟨hprogram, hfpc⟩ := exec_program_fpc hexec
  have htxe : t.txe = s.txe := ((exec_txe_cases hexec).resolve_left hevt).resolve_left htxTxe
  refine ⟨htxe, by simpa [hi] using hevt, by simpa [hi] using htxTxe,
    drainMeasure_le (exec_usesRings hexec).config hprogram htx htxe ?_⟩
  rw [hfpc]
  split <;> omega

/-- While TXIE stays 1, a turn other than reset makes progress or is quiet. -/
theorem stepTurn_drains (hinv : s.Inv) (hu : u ≠ .reset) (h : stepTurn u s = .next t) (htxie : t.txie = true) :
    drainMeasure t < drainMeasure s ∨ Quiet u s t := by
  have hbound : t.fpc ≤ t.program.length := (hinv.stepTurn h).fpc_le
  obtain ⟨i, hi, hexec⟩ | ⟨hnone, ⟨p, rfl⟩ | rfl⟩ := stepTurn_turnInstr hu h
  · cases i with
    | txWrite d =>
      obtain ⟨-, rfl⟩ | ⟨-, rfl⟩ := execTxWrite_next hexec
      · exact .inr (.of_exec hi hexec nofun nofun rfl)
      · exact .inr ⟨rfl, by simp [hi], by simp [hi], drainMeasure_txWrite hinv hbound⟩
    | txEvt =>
      obtain ⟨-, htxe, ⟨-, rfl⟩ | ⟨b, hne, -, rfl⟩⟩ := execTxEvt_next hexec
      · nomatch htxie
      · exact .inl (drainMeasure_txEvt hinv hne htxe)
    | txTxe =>
      obtain ⟨htxe, rfl⟩ := execTxTxe_next hexec
      exact .inl (drainMeasure_txTxe htxe)
    | _ =>
      obtain ⟨d, hwrite⟩ | hevt | ⟨-, htx⟩ := exec_tx_cases hexec
      · nomatch hwrite
      · nomatch hevt
      · exact .inr (.of_exec hi hexec nofun nofun htx)
  · exact .inr ⟨rfl, by simp [hnone], by simp [hnone], drainMeasure_le rfl rfl rfl rfl (by cases p <;> simp)⟩
  · exact .inr ⟨rfl, by simp [hnone], by simp [hnone], le_rfl⟩

/-! ### Descent along a run -/

/-- No sequence of numbers falls again and again and never grows. -/
theorem not_descends_forever {g : Nat → Nat} (hle : ∀ m, n ≤ m → g (m + 1) ≤ g m)
    (hlt : ∀ m, n ≤ m → ∃ l, m ≤ l ∧ g (l + 1) < g l) : False := by
  have hanti : ∀ m, n ≤ m → ∀ l, m ≤ l → g l ≤ g m := fun m hm l hl => by
    induction l, hl using Nat.le_induction with
    | base => exact le_rfl
    | succ l hl ih => exact (hle l (hm.trans hl)).trans ih
  have hnone : ∀ k m, n ≤ m → g m ≠ k := fun k => by
    induction k using Nat.strong_induction_on with
    | _ k ih =>
      rintro m hm rfl
      obtain ⟨l, hl, hfall⟩ := hlt m hm
      exact ih _ (hfall.trans_le (hanti m hm l hl)) (l + 1) (by omega) rfl
  exact hnone _ n le_rfl rfl

theorem IsRun.inv (hrun : IsRun turns σ) (h0 : (σ 0).Inv) (n : Nat) : (σ n).Inv := by
  induction n with
  | zero => exact h0
  | succ n ih => exact ih.stepTurn (hrun n)

/-- A run that keeps TXIE at 1 is not reset. -/
theorem IsRun.ne_reset (hrun : IsRun turns σ) (htxie : (σ (m + 1)).txie = true) : turns m ≠ .reset := fun hreset => by
  have hstep : stepTurn .reset (σ m) = .next (σ (m + 1)) := hreset ▸ hrun m
  rw [← Host.Outcome.next.inj hstep] at htxie
  nomatch htxie

/-- Fairness for the two events leaves no run quiet forever with TXIE at 1: whatever TXE is, one of the two stays enabled. -/
theorem not_quiet_forever
    (htxEvt : ∀ n, (∀ m, n ≤ m → (σ m).irqTxReq = true) → ∃ m, n ≤ m ∧ turnInstr (turns m) (σ m) = some .txEvt)
    (htxTxe : ∀ n, (∀ m, n ≤ m → (σ m).txe = false) → ∃ m, n ≤ m ∧ turnInstr (turns m) (σ m) = some .txTxe)
    (harmed : ∀ m, n ≤ m → (σ m).txie = true) (hquiet : ∀ m, n ≤ m → Quiet (turns m) (σ m) (σ (m + 1))) : False := by
  have htxe : ∀ m, n ≤ m → (σ m).txe = (σ n).txe := fun m hm => by
    induction m, hm using Nat.le_induction with
    | base => rfl
    | succ m hm ih => exact (hquiet m hm).txe.trans ih
  cases hn : (σ n).txe with
  | true =>
    obtain ⟨m, hm, hi⟩ := htxEvt n fun m hm => State.irqTxReq_iff.mpr ⟨harmed m hm, (htxe m hm).trans hn⟩
    exact (hquiet m hm).not_txEvt hi
  | false =>
    obtain ⟨m, hm, hi⟩ := htxTxe n fun m hm => (htxe m hm).trans hn
    exact (hquiet m hm).not_txTxe hi

/-- Under fairness TXIE is 0 again and again: while it is 1, the work left falls again and again and never grows. -/
theorem IsRun.exists_txie_eq_false (hrun : IsRun turns σ) (h0 : (σ 0).Inv)
    (htxEvt : ∀ n, (∀ m, n ≤ m → (σ m).irqTxReq = true) → ∃ m, n ≤ m ∧ turnInstr (turns m) (σ m) = some .txEvt)
    (htxTxe : ∀ n, (∀ m, n ≤ m → (σ m).txe = false) → ∃ m, n ≤ m ∧ turnInstr (turns m) (σ m) = some .txTxe) (n : Nat) :
    ∃ m, n ≤ m ∧ (σ m).txie = false := by
  by_contra hno
  have harmed : ∀ m, n ≤ m → (σ m).txie = true := fun m hm => Bool.eq_true_of_not_eq_false fun hzero => hno ⟨m, hm, hzero⟩
  have hdrains : ∀ m, n ≤ m → drainMeasure (σ (m + 1)) < drainMeasure (σ m) ∨ Quiet (turns m) (σ m) (σ (m + 1)) :=
    fun m hm => by
      have hnext : (σ (m + 1)).txie = true := harmed (m + 1) (Nat.le_succ_of_le hm)
      exact stepTurn_drains (hrun.inv h0 m) (hrun.ne_reset hnext) (hrun m) hnext
  refine not_descends_forever (n := n) (g := fun m => drainMeasure (σ m)) (fun m hm => ?notGrows) (fun m hm => ?falls)
  case notGrows =>
    obtain hlt | hquiet := hdrains m hm
    · exact hlt.le
    · exact hquiet.work_le
  case falls =>
    by_contra hnever
    refine not_quiet_forever (n := m) htxEvt htxTxe (fun l hl => harmed l (hm.trans hl)) fun l hl => ?_
    exact (hdrains l (hm.trans hl)).resolve_left fun hlt => hnever ⟨l, hl, hlt⟩

end Sys2Proof.Machine

namespace Sys2Proof

open Machine

/-- Settles O51: where TXIE is 0 the transmit buffer is empty, so it is not full, and all three are reached from every point on. -/
theorem fairTransmitterDrains : Obligations.FairTransmitterDrains := by
  unfold Obligations.FairTransmitterDrains
  intro turns σ hrun h0 htxEvt htxTxe n
  obtain ⟨m, hm, htxie⟩ := hrun.exists_txie_eq_false h0 htxEvt htxTxe n
  have hinv : (σ m).Inv := hrun.inv h0 m
  have hempty : (σ m).tx.isEmpty = true := RingBuffer.isEmpty_iff.mpr (hinv.tx_empty_of_not_txie htxie)
  have hroom := RingBuffer.isFull_eq_false_of_isEmpty hinv.tx.head_lt hinv.tx.tail_lt hempty
  exact ⟨⟨m, hm, hroom⟩, ⟨m, hm, hempty⟩, fun _ => ⟨m, hm, hempty, htxie⟩⟩

end Sys2Proof
end


section
/-!
PROOF. The assembler and the listing form (spec/30_encoding.md R82 to R85): an assembled instruction carries exactly the operand written,
and the digits of a listing determine the words they print.
-/
namespace Sys2Proof.Machine

variable {w : AdcWidth} {i j : Instr} {n v : Nat} {d e : Sample} {operand : Option Token} {tok : Token}

/-! ### Operands -/

/-- A number that fits a data word is the data word's value. -/
theorem fitsWidth_ofNat (hv : v < 2 ^ n) : fitsWidth n (BitVec.ofNat 16 v) = true := by
  rw [fitsWidth_iff, BitVec.toNat_ofNat]
  exact (Nat.mod_le _ _).trans_lt hv

/-- An operand that does not fit is refused (R83). -/
theorem assembleBody_of_wide (hn : i.dataWidth w = some n) (hv : literalValue tok = some v) (hwide : 2 ^ n ≤ v) :
    assembleBody w i (some tok) = .error .operandTooWide := by
  simp [assembleBody, hn, hv, Nat.not_lt.mpr hwide]

/-- An operand that fits is put in (R83). -/
theorem assembleBody_of_fits (hn : i.dataWidth w = some n) (hv : literalValue tok = some v) (hfits : v < 2 ^ n) :
    assembleBody w i (some tok) = .ok (i.withData (BitVec.ofNat 16 v)) := by
  simp [assembleBody, hn, hv, hfits]

/-- Whatever is assembled is well formed: it takes no operand, or its operand fits. -/
theorem wellFormed_of_assembleBody (h : assembleBody w i operand = .ok j) : j.wellFormed w = true := by
  unfold assembleBody at h
  split at h
  next hn => cases h; exact Instr.wellFormed_of_dataWidth_eq_none hn
  next => nomatch h
  next => nomatch h
  next n tok hn =>
    split at h
    next => nomatch h
    next v hv =>
      split at h
      next hfits => cases h; exact (Instr.withData_of_fitsWidth hn (fitsWidth_ofNat hfits)).1
      next => nomatch h

theorem wellFormed_of_assembleTokens {agent : Option AsmAgent} {toks : List Token}
    (h : assembleTokens w agent toks = .ok j) : j.wellFormed w = true := by
  unfold assembleTokens at h
  split at h
  next =>
    split at h
    next => nomatch h
    next =>
      split at h
      next =>
        split at h
        next => exact wellFormed_of_assembleBody h
        next => exact wellFormed_of_assembleBody h
        next => nomatch h
      next => nomatch h
  next => nomatch h

theorem wellFormed_of_assembleLine {line : List Char} (h : assembleLine w line = .ok j) : j.wellFormed w = true := by
  unfold assembleLine at h
  split at h
  next => nomatch h
  next =>
    split at h
    next => nomatch h
    next => exact wellFormed_of_assembleTokens h
  next => exact wellFormed_of_assembleTokens h

/-! ### Hexadecimal digits -/

theorem hexDigit_injective : ∀ a < 16, ∀ b < 16, hexDigit a = hexDigit b → a = b := by
  decide

@[simp] theorem length_hexDigits (n v : Nat) : (hexDigits n v).length = n := by
  induction n generalizing v with
  | zero => rfl
  | succ n ih => simp [hexDigits, ih]

/-- `n` digits determine a number below 16 ^ n. -/
theorem hexDigits_injective {a b : Nat} (ha : a < 16 ^ n) (hb : b < 16 ^ n) (h : hexDigits n a = hexDigits n b) : a = b := by
  induction n generalizing a b with
  | zero => omega
  | succ n ih =>
    obtain ⟨hhigh, hlow⟩ := List.append_inj h (by simp)
    have hdiv : a / 16 = b / 16 := ih (by omega) (by omega) hhigh
    have hmod : a % 16 = b % 16 :=
      hexDigit_injective _ (Nat.mod_lt _ (by decide)) _ (Nat.mod_lt _ (by decide)) (List.singleton_inj.mp hlow)
    omega

/-! ### Listings -/

/-- The digits of the data word in a listing, after a space, where there is one (R85). -/
def listedData (w : AdcWidth) (i : Instr) : List Char :=
  match i.dataWidth w, i.data with
  | some n, some d => ' ' :: hexDigits (n / 4) d.toNat
  | _, _           => []

theorem listing_eq (w : AdcWidth) (i : Instr) : listing w i = hexDigits 2 (encodeWord i).toNat ++ listedData w i := by
  unfold listing listedData
  rfl

/-- Instructions with the same words are the same (R77). -/
theorem eq_of_encodeWord_eq (hword : encodeWord i = encodeWord j) (hdata : i.data = j.data) : i = j := by
  have hrow : i.withData 0 = j.withData 0 := by
    simpa using congrArg decodeWord hword
  cases hd : i.data with
  | none => rw [← Instr.withData_of_data_eq_none (d := 0) hd, hrow, Instr.withData_of_data_eq_none (hdata ▸ hd)]
  | some d =>
    rw [← Instr.withData_of_data_eq_some (e := 0) hd, hrow, Instr.withData_of_data_eq_some (hdata ▸ hd)]

/-- A data word has whole hexadecimal digits (R75, R85). -/
theorem two_pow_dataWidth (hn : i.dataWidth w = some n) : 2 ^ n = 16 ^ (n / 4) := by
  cases i with
  | txWrite | rxEvt => cases hn; rfl
  | adcEvt => cases hn; cases w <;> rfl
  | _ => nomatch hn

/-- A well-formed instruction with a data word lists a number of that width. -/
theorem listedData_of_dataWidth (hwf : i.wellFormed w = true) (hn : i.dataWidth w = some n) :
    ∃ d, i.data = some d ∧ d.toNat < 16 ^ (n / 4) ∧ listedData w i = ' ' :: hexDigits (n / 4) d.toNat := by
  obtain ⟨d, hd⟩ := Option.ne_none_iff_exists'.mp (mt (Instr.data_eq_none_iff w i).mp (by simp [hn]))
  have hfits : d.toNat < 2 ^ n := fitsWidth_iff.mp (Instr.fitsWidth_of_wellFormed hwf hn hd)
  exact ⟨d, hd, two_pow_dataWidth hn ▸ hfits, by simp [listedData, hn, hd]⟩

/-- Data words of the same width with the same digits are the same. -/
theorem data_eq_of_listedData_eq (hi : i.wellFormed w = true) (hj : j.wellFormed w = true)
    (hwidth : i.dataWidth w = j.dataWidth w) (h : listedData w i = listedData w j) : i.data = j.data := by
  cases hn : i.dataWidth w with
  | none => rw [(Instr.data_eq_none_iff w i).mpr hn, (Instr.data_eq_none_iff w j).mpr (hwidth ▸ hn)]
  | some n =>
    obtain ⟨d, hd, hdlt, hdlist⟩ := listedData_of_dataWidth hi hn
    obtain ⟨e, he, helt, helist⟩ := listedData_of_dataWidth hj (hwidth ▸ hn)
    rw [hdlist, helist, List.cons_inj_right] at h
    rw [hd, he, BitVec.eq_of_toNat_eq (hexDigits_injective hdlt helt h)]

end Sys2Proof.Machine

namespace Sys2Proof

open Machine

/-- Settles O54: a line is assembled through `assembleBody`, which puts in an operand that fits and refuses any other. -/
theorem assembledOperandFits : Obligations.AssembledOperandFits := by
  unfold Obligations.AssembledOperandFits
  refine fun w i tok line => ⟨fun j h => ?line, fun n v hn hv => ⟨assembleBody_of_wide hn hv, fun hfits => ?fits⟩⟩
  case line =>
    have hwf : j.wellFormed w = true := wellFormed_of_assembleLine h
    exact ⟨hwf, decode_encode hwf⟩
  case fits =>
    have hdata := (Instr.withData_of_fitsWidth hn (fitsWidth_ofNat hfits)).2
    exact ⟨_, assembleBody_of_fits hn hv hfits, hdata, encodeWord_withData _ _⟩

/-- Settles O55: the first two digits determine the command word, and with it the width and the digits of the data word. -/
theorem listingDeterminesInstruction : Obligations.ListingDeterminesInstruction := by
  unfold Obligations.ListingDeterminesInstruction
  intro w i j hi hj h
  rw [listing_eq, listing_eq] at h
  obtain ⟨hdigits, hlisted⟩ := List.append_inj h (by simp)
  have hword : encodeWord i = encodeWord j :=
    BitVec.eq_of_toNat_eq (hexDigits_injective (encodeWord i).isLt (encodeWord j).isLt hdigits)
  have hwidth : i.dataWidth w = j.dataWidth w := by
    simpa using congrArg (Option.map (Instr.dataWidth w)) (congrArg decodeWord hword)
  exact eq_of_encodeWord_eq hword (data_eq_of_listedData_eq hi hj hwidth hlisted)

end Sys2Proof
end
